-- ==== Sys2Proof/Word.lean ====
section
/-! DEFINITION. The two widths of the block: all values are unsigned (spec/00_scope.md R7). -/

namespace Sys2Proof

/-- `u8`: a data byte, a buffer index, an opcode (R7, R70). -/
abbrev Byte := BitVec 8

/-- `u16`: a command word, a checksum, a register (R7). -/
abbrev Word := BitVec 16

end Sys2Proof
end

