-- ==== Sys2Proof/Syntax.lean ====
section
/-! DEFINITION. The commands (one constructor per row of spec/opcode_table.json) and the source lines of the assembler
(spec/30_encoding.md R71, R75, R76). -/

namespace Sys2Proof

/-- The ten commands of the opcode map (R71). An operand is the 8-bit `IMM` (R72), so that every value of this type is
a command some legal word stands for. -/
inductive Instr where
  | crcInit
  | crcFeed (b : Byte)
  | crcRstd
  | crcRvnd
  | frmClear
  | frmPush (b : Byte)
  | frmRead (i : Byte)
  | frmEncode
  | frmValidate
  | frmClassify
  deriving DecidableEq, Repr

/-- The words an assembler line may begin with: the ten mnemonics (R71, R75) and the four pseudo-instructions (R76). -/
inductive Mnemonic where
  | crcInit
  | crcFeed
  | crcRstd
  | crcRvnd
  | frmClear
  | frmPush
  | frmRead
  | frmEncode
  | frmValidate
  | frmClassify
  | frmLoad
  | crcOver
  | encode
  | check
  deriving DecidableEq, Repr

/-- One assembler line as written: a mnemonic and its numbers, not yet checked (R75, R76). -/
structure Source where
  mnemonic : Mnemonic
  operands : List Nat
  deriving DecidableEq, Repr

end Sys2Proof
end

