-- ==== Sys2Proof/Decode.lean ====
section
/-! DEFINITION. The decoder of command words, total over all 65,536 of them, and the encoder (spec/30_encoding.md R70 to
R74). A word that is no command is rejected by name; what the block then does is E_ILLEGAL, in Machine/HostPort.lean. -/

namespace Sys2Proof

/-- `OP = w[15:8]` (R70). -/
def wordOp (w : Word) : Byte := w.extractLsb' 8 8

/-- `IMM = w[7:0]` (R70). -/
def wordImm (w : Word) : Byte := w.extractLsb' 0 8

/-- The two ways a word can be illegal (R73). -/
inductive IllegalWord where
  /-- `OP` is not in the table of R71. -/
  | unassignedOp (op : Byte)
  /-- `OP` names a no-operand command and `IMM != 0x00`. -/
  | operandNotZero (op imm : Byte)
  deriving DecidableEq, Repr

/-- What a command word is: a command, or illegal for a named reason. -/
inductive Decoded where
  | legal (i : Instr)
  | illegal (why : IllegalWord)
  deriving DecidableEq, Repr

/-- A no-operand command: `IMM` carries nothing and must be `0x00` (R72, R73). -/
def noOperand (i : Instr) (op imm : Byte) : Decoded :=
  if imm = 0x00#8 then .legal i else .illegal (.operandNotZero op imm)

/-- The opcode map (R71) applied to the two fields. -/
def decodeFields (op imm : Byte) : Decoded :=
  match op with
  | 0x01#8 => noOperand .crcInit op imm
  | 0x02#8 => .legal (.crcFeed imm)
  | 0x03#8 => noOperand .crcRstd op imm
  | 0x04#8 => noOperand .crcRvnd op imm
  | 0x10#8 => noOperand .frmClear op imm
  | 0x11#8 => .legal (.frmPush imm)
  | 0x12#8 => .legal (.frmRead imm)
  | 0x20#8 => noOperand .frmEncode op imm
  | 0x21#8 => noOperand .frmValidate op imm
  | 0x30#8 => noOperand .frmClassify op imm
  | _ => .illegal (.unassignedOp op)

/-- "A decoder reads `OP = w[15:8]` and `IMM = w[7:0]` and looks `OP` up" (R70). -/
def decode (w : Word) : Decoded := decodeFields (wordOp w) (wordImm w)

/-- The command a word stands for, if it is legal. -/
def Decoded.instr? : Decoded → Option Instr
  | .legal i => some i
  | .illegal _ => none

/-- The opcode of a command (R71). -/
def Instr.op : Instr → Byte
  | .crcInit => 0x01#8
  | .crcFeed _ => 0x02#8
  | .crcRstd => 0x03#8
  | .crcRvnd => 0x04#8
  | .frmClear => 0x10#8
  | .frmPush _ => 0x11#8
  | .frmRead _ => 0x12#8
  | .frmEncode => 0x20#8
  | .frmValidate => 0x21#8
  | .frmClassify => 0x30#8

/-- The operand field of a command: its byte, or `0x00` where it takes none (R72). -/
def Instr.imm : Instr → Byte
  | .crcFeed b | .frmPush b => b
  | .frmRead i => i
  | .crcInit | .crcRstd | .crcRvnd | .frmClear | .frmEncode | .frmValidate | .frmClassify => 0x00#8

/-- The command word: `OP` in bits 15:8, `IMM` in bits 7:0 (R70). -/
def encode (i : Instr) : Word := i.op ++ i.imm

/-- The mask of the command's row of spec/opcode_table.json: all bits of a no-operand command, the opcode's bits of
one with an operand. -/
def Instr.rowMask : Instr → Word
  | .crcFeed _ | .frmPush _ | .frmRead _ => 0xFF00#16
  | .crcInit | .crcRstd | .crcRvnd | .frmClear | .frmEncode | .frmValidate | .frmClassify => 0xFFFF#16

/-- The match of the command's row. -/
def Instr.rowMatch : Instr → Word
  | .crcInit => 0x0100#16
  | .crcFeed _ => 0x0200#16
  | .crcRstd => 0x0300#16
  | .crcRvnd => 0x0400#16
  | .frmClear => 0x1000#16
  | .frmPush _ => 0x1100#16
  | .frmRead _ => 0x1200#16
  | .frmEncode => 0x2000#16
  | .frmValidate => 0x2100#16
  | .frmClassify => 0x3000#16

/-- The command word of `nbits` bits numbered as spec/opcode_table.json numbers them: one 16-bit word, bit 0 its least
significant, bits above `nbits` zero. The word is handed to the port whole, so no byte order arises (R63). -/
def tableWord (nbits w : Nat) : Word := BitVec.ofNat 16 (w % 2 ^ nbits)

/-- The command the decoder reads from a table row's bits. DESIGN CHOICE (log 13), safe: more than one word of bits is
no command word of this block. -/
def decodeTableWord (nbits w : Nat) : Option Instr :=
  if nbits ≤ 16 then (decode (tableWord nbits w)).instr? else none

end Sys2Proof
end

