-- ==== Sys2Proof/Config.lean ====
section
/-! DEFINITION. The two parameters an instance fixes for its life (spec/00_scope.md R6, spec/92_eei_decisions.md D4, D5).
Every statement quantifies over them: they stand in the state as configuration that nothing changes (R191; log 4). -/

namespace Sys2Proof

/-- The two settings of `EXC_DIALECT` (R6, R11): which byte decides the checksum order of exception-shaped frames. -/
inductive ExcDialect where
  | base
  | raw
  deriving DecidableEq, Repr

/-- The parameters of one instance (R6). -/
structure Params where
  /-- `MAX_FRAME`, the capacity of the frame buffer in bytes. -/
  maxFrame : Nat
  /-- `EXC_DIALECT`. -/
  excDialect : ExcDialect
  deriving DecidableEq, Repr

/-- The range R6 gives `MAX_FRAME`: `8 <= MAX_FRAME <= 255`. -/
abbrev Params.Legal (p : Params) : Prop := 8 ≤ p.maxFrame ∧ p.maxFrame ≤ 255

/-- The values in force where nothing names others: `EXC_DIALECT = Base` is the spec's default (R6), and
`MAX_FRAME = 255` is what spec/95_test_vectors.md takes where a vector names none. DESIGN CHOICE (log 4), unsafe for a
claim about this one value only. -/
def Params.usual : Params := { maxFrame := 255, excDialect := .base }

end Sys2Proof
end

