-- ==== Sys2Proof/Machine/State.lean ====
section
/-! DEFINITION. The state (spec/10_state.md R20 to R36), the reasons a step can stop, and the state after reset. -/

namespace Sys2Proof.Machine

/-- The two checksum byte orders (spec/41_frame_codec.md R120): `Standard` (0) and `Vendor` (1). -/
inductive Dialect where
  | standard
  | vendor
  deriving DecidableEq, Repr

/-- `STATUS` by its fields (R24). The reserved bits are hard-wired to 0 (R30, R34), so they hold nothing; the 16-bit
value the host reads is `Status.word`. DEDUCED (log 5), safe. -/
structure Status where
  /-- Bit 0 (R25). -/
  valid : Bool
  /-- Bit 1 (R26). -/
  dialect : Dialect
  /-- Bit 2 (R27). -/
  exc : Bool
  /-- Bits 7:4 (R28). -/
  err : BitVec 4
  /-- Bit 8 (R29). -/
  sticky : Bool
  deriving DecidableEq, Repr

/-- `EXCR` by its fields (R31); the reserved bits 7:3 are hard-wired to 0 (R30, R34). -/
structure Excr where
  /-- Bits 2:0. -/
  kind : BitVec 3
  /-- Bits 15:8. -/
  code : Byte
  deriving DecidableEq, Repr

/-- The frame buffer space (spec/20_memory.md R50): the byte at index `i` is the `i`-th element, so the indices are
exactly 0 to LEN - 1 and no other byte is state (R22). DESIGN CHOICE (log 7), safe. -/
abbrev Memory := List Byte

/-- One interaction of the host with the block (spec/20_memory.md R63). -/
inductive HostAct where
  /-- A 16-bit command word on the command port. -/
  | command (w : Word)
  /-- A read at a 3-bit address of the register read port. -/
  | read (a : BitVec 3)
  /-- A reset assertion, between commands (R190). -/
  | reset
  deriving DecidableEq, Repr

/-- The state. `crc`, `buf`, `out`, `status` and `excr` are the architectural state (R20); `LEN` is the length of
`buf`. `params` is the instance's configuration (R6), which nothing changes (R191). `port` and `reads` are the host's
side of the two ports (R63, R201). -/
structure State where
  /-- `CRC` (R21). -/
  crc : Word
  /-- `BUF`, and through its length `LEN` (R22). -/
  buf : Memory
  /-- `OUT` (R23). -/
  out : Word
  /-- `STATUS` (R24). -/
  status : Status
  /-- `EXCR` (R31). -/
  excr : Excr
  /-- `MAX_FRAME` and `EXC_DIALECT` (R6). DESIGN CHOICE (log 4). -/
  params : Params
  /-- What the host has still to issue, the next interaction first (R60, R63). DESIGN CHOICE (log 1), safe. -/
  port : List HostAct
  /-- The register values the host has read, the oldest first (R201). DESIGN CHOICE (log 3), safe. -/
  reads : List Word
  deriving DecidableEq, Repr

/-- Why the model stops. The hardware never does (R170); these are raised by `Sys2Proof.Machine.guarded`, only in states
that hold a value no command ever writes, which spec/93_implementation_defined.md treats as an internal inconsistency
(log 8). -/
inductive Fault where
  /-- `STATUS.ERR` holds one of the reserved codes 6 to 15 (I13). Safe: a stop, in states no run reaches. -/
  | reservedErr (code : BitVec 4)
  /-- `EXCR.KIND` holds the unused value 7 (I14). Safe: a stop, in states no run reaches. -/
  | reservedKind
  deriving DecidableEq, Repr

/-- Why the model has no meaning for an instruction. -/
inductive Refusal where
  /-- An instruction without a meaning, by its mnemonic. Raised by no arm: every instruction has its meaning. Safe. -/
  | notModelled (mnemonic : String)
  deriving DecidableEq, Repr

/-- An instance with parameters `p` right after reset (R36, R190), nothing issued to it and nothing read from it. -/
def State.init (p : Params) : State where
  crc := 0xFFFF#16
  buf := []
  out := 0x0000#16
  status := { valid := false, dialect := .standard, exc := false, err := 0#4, sticky := false }
  excr := { kind := 0#3, code := 0x00#8 }
  params := p
  port := []
  reads := []

/-- The state after reset, of an instance with the usual parameters (log 4). -/
def State.reset : State := State.init Params.usual

end Sys2Proof.Machine
end

