-- ==== Sys2Proof/Machine/Flags.lean ====
section
/-! DEFINITION. The error codes and the 16-bit values of STATUS and EXCR (spec/10_state.md R24, R31,
spec/60_exceptions.md R171). -/

namespace Sys2Proof.Machine

/-- The command errors (R171). -/
inductive CmdError where
  | illegal
  | overflow
  | short
  | addr
  | index
  deriving DecidableEq, Repr

/-- What `STATUS.ERR` holds after the error (R171). -/
def CmdError.code : CmdError → BitVec 4
  | .illegal => 1#4
  | .overflow => 2#4
  | .short => 3#4
  | .addr => 4#4
  | .index => 5#4

/-- `STATUS.DIALECT`: 0 for Standard, 1 for Vendor (R26). -/
def Dialect.bit : Dialect → BitVec 1
  | .standard => 0#1
  | .vendor => 1#1

/-- `STATUS` as one word: bits 15:9 reserved, 8 STICKY, 7:4 ERR, 3 reserved, 2 EXC, 1 DIALECT, 0 VALID (R24, R30). -/
def Status.word (t : Status) : Word :=
  0#7 ++ BitVec.ofBool t.sticky ++ t.err ++ 0#1 ++ BitVec.ofBool t.exc ++ t.dialect.bit ++ BitVec.ofBool t.valid

/-- `EXCR` as one word: bits 15:8 CODE, 7:3 reserved, 2:0 KIND (R31, R30). -/
def Excr.word (e : Excr) : Word := e.code ++ 0#5 ++ e.kind

/-- The value of `EXCR` that means "no exception" (R31): `0x0000`. -/
def Excr.none : Excr := { kind := 0#3, code := 0x00#8 }

end Sys2Proof.Machine
end

