-- ==== Sys2Proof/Machine/Operands.lean ====
section
/-! DEFINITION. Byte and word forms: extension, the two halves of a word, and the packing of two wire bytes
(spec/00_scope.md R7, spec/20_memory.md R55, spec/30_encoding.md R72). -/

namespace Sys2Proof.Machine

/-- `zext_16(b)` (R7). -/
def zext16 (b : Byte) : Word := b.setWidth 16

/-- `c[15:8]`. -/
def highByte (c : Word) : Byte := c.extractLsb' 8 8

/-- `c[7:0]`. -/
def lowByte (c : Word) : Byte := c.extractLsb' 0 8

/-- A checksum rendered for the wire: the first byte, then the second (spec/40_crc.md R103 to R105). -/
abbrev Rendering := Byte × Byte

/-- The rendering as it stands in a frame: `[c0, c1]`. -/
def wireBytes (r : Rendering) : List Byte := [r.1, r.2]

/-- The rendering as `OUT` holds it: the first wire byte in `OUT[15:8]` (R55). -/
def packOut (r : Rendering) : Word := (zext16 r.1 <<< 8) ||| zext16 r.2

/-- A buffer index operand, "in the range 0 to 255" and unsigned (R72). -/
def bufIndex (i : Byte) : Nat := i.toNat

end Sys2Proof.Machine
end

