-- ==== Sys2Proof/Machine/Ops.lean ====
section
/-! DEFINITION. The named operations over the registers and the frame buffer, how a command ends, reset, and the
register read port. Every write of a command is made of these. -/

namespace Sys2Proof.Machine

/-- What a command, a step or a meaning answers. -/
abbrev Answer := Host.Outcome State Fault Refusal

/-! The frame buffer (spec/20_memory.md R50, R57). -/

/-- `MemRead(i, 1)`: the byte at index `i`; none at an index `>= LEN`, where no byte is state (spec/00_scope.md R9,
spec/93_implementation_defined.md I17). -/
def Memory.read? (m : Memory) (i : Nat) : Option Byte := m[i]?

/-- `MemAppend`: the only way a byte is stored (R9, R22). -/
def Memory.append (m : Memory) (bs : List Byte) : Memory := m ++ bs

/-- The form of a buffer of an instance with parameters `p`: `len(BUF) <= MAX_FRAME` (R22). That the indices rise by
one from 0 holds of every list. -/
def Memory.wf (p : Params) (m : Memory) : Bool := decide (m.length ≤ p.maxFrame)

/-- The bytes paired with their indices from `i` up. -/
def Memory.cellsFrom (i : Nat) : Memory → List Host.Cell
  | [] => []
  | b :: bs => (i, b) :: cellsFrom (i + 1) bs

/-- The buffer as a list of (address, byte) pairs. -/
def Memory.cells (m : Memory) : List Host.Cell := m.cellsFrom 0

/-- `LEN` as the number of bytes. -/
def State.len (s : State) : Nat := s.buf.length

/-- `LEN` as the 8-bit register (R22). -/
def State.lenReg (s : State) : Byte := BitVec.ofNat 8 s.len

/-! Register writes. -/

/-- `CRC <- v`. -/
def State.setCrc (s : State) (v : Word) : State := { s with crc := v }

/-- `OUT <- v`. -/
def State.setOut (s : State) (v : Word) : State := { s with out := v }

/-- `STATUS.DIALECT <- d`. -/
def State.setDialect (s : State) (d : Dialect) : State := { s with status := { s.status with dialect := d } }

/-- `STATUS.VALID <- v`. -/
def State.setValid (s : State) (v : Bool) : State := { s with status := { s.status with valid := v } }

/-- `STATUS.EXC <- b ; EXCR <- e`. -/
def State.setExc (s : State) (b : Bool) (e : Excr) : State :=
  { s with status := { s.status with exc := b }, excr := e }

/-- `STATUS.ERR <- c`. -/
def State.setErr (s : State) (c : BitVec 4) : State := { s with status := { s.status with err := c } }

/-- `STATUS.STICKY <- 1`. -/
def State.setSticky (s : State) : State := { s with status := { s.status with sticky := true } }

/-- `BUF <- m`, and with it `STATUS.VALID <- 0 ; STATUS.EXC <- 0 ; EXCR <- 0x0000`: "Every command that changes `BUF`
clears" them (R25, R27, R31). -/
def State.replaceBuf (s : State) (m : Memory) : State := ({ s with buf := m }.setValid false).setExc false Excr.none

/-! How a command ends. -/

/-- A command that completes writes `STATUS.ERR <- 0` and leaves `STICKY` (spec/60_exceptions.md R173). -/
def complete (s : State) : Answer := .next (s.setErr 0#4)

/-- `raise CmdError(e)` in the state before the command: `ERR` and `STICKY`, nothing else (R172). -/
def raise (e : CmdError) (s : State) : Answer := .next ((s.setErr e.code).setSticky)

/-! The register read port and reset (spec/20_memory.md R51, spec/70_reset_and_hazards.md R190). -/

/-- The register read space map (R51). -/
def State.readReg (s : State) (a : BitVec 3) : Word :=
  match a with
  | 0#3 => s.status.word
  | 1#3 => s.crc
  | 2#3 => zext16 s.lenReg
  | 3#3 => s.out
  | 4#3 => s.excr.word
  | _ => 0x0000#16

/-- A host read: no register changes, the host has the value (R51, R63). -/
def State.hostRead (s : State) (a : BitVec 3) : State := { s with reads := s.reads ++ [s.readReg a] }

/-- A reset: every piece of state to its reset value (R190); the parameters stay (R191), and so does what the host has
read and has still to issue. DESIGN CHOICE for the latter two (log 11), safe. -/
def State.assertReset (s : State) : State := { State.init s.params with port := s.port, reads := s.reads }

/-- The reserved value the state holds, if it holds one: `ERR` of 6 to 15 (I13), `KIND` 7 (I14). -/
def State.reservedValue? (s : State) : Option Fault :=
  if 5 < s.status.err.toNat then some (.reservedErr s.status.err)
  else if s.excr.kind = 7#3 then some .reservedKind
  else none

/-- Act on the state, unless it holds a reserved value, "an internal inconsistency" that is treated as a fault (I13,
I14). DEDUCED (log 8), safe. -/
def guarded (s : State) (act : State → Answer) : Answer :=
  match s.reservedValue? with
  | some f => .fault f
  | none => act s

end Sys2Proof.Machine
end

