-- ==== Sys2Proof/Machine/Crc.lean ====
section
/-! DEFINITION. The CRC engine (spec/40_crc.md): its functions R100 to R105 and its four commands R106 to R109. -/

namespace Sys2Proof.Machine

/-- The initial value (R5, R102). -/
def crcInitial : Word := 0xFFFF#16

/-- The polynomial constant (R5, R100). -/
def crcPoly : Word := 0xA001#16

/-- One bit step: the low bit is tested before the shift (R100). -/
def crcBit (c : Word) : Word := if c.getLsbD 0 then (c >>> 1) ^^^ crcPoly else c >>> 1

/-- `n` bit steps. -/
def crcBits : Nat → Word → Word
  | 0, c => c
  | n + 1, c => crcBits n (crcBit c)

/-- One byte: XOR it into the low 8 bits, then 8 bit steps (R101). -/
def crcStep8 (c : Word) (b : Byte) : Word := crcBits 8 (c ^^^ zext16 b)

/-- The left fold of the bytes from a given running value. -/
def crcFrom (c : Word) (bs : List Byte) : Word := bs.foldl crcStep8 c

/-- `checksum(bs)` (R102). -/
def checksum (bs : List Byte) : Word := crcFrom crcInitial bs

/-- `crc0(bs)`: the fold from zero, with which R111 states the engine's linearity. -/
def crc0 (bs : List Byte) : Word := crcFrom 0x0000#16 bs

/-- `[c[15:8], c[7:0]]` (R103). -/
def renderVendorOrder (c : Word) : Rendering := (highByte c, lowByte c)

/-- `[c[7:0], c[15:8]]` (R104). -/
def renderStandardOrder (c : Word) : Rendering := (lowByte c, highByte c)

/-- The rendering in a dialect (R105). -/
def render (d : Dialect) (c : Word) : Rendering :=
  match d with
  | .vendor => renderVendorOrder c
  | .standard => renderStandardOrder c

/-- The rendering of `c` in dialect `d` as a command reports it: in `OUT` (R55) and `STATUS.DIALECT` (R26). -/
def State.report (s : State) (d : Dialect) (c : Word) : State := (s.setOut (packOut (render d c))).setDialect d

/-- CRC_INIT (R106). -/
def execCrcInit (s : State) : Answer := complete (s.setCrc crcInitial)

/-- CRC_FEED `b` (R107). -/
def execCrcFeed (b : Byte) (s : State) : Answer := complete (s.setCrc (crcStep8 s.crc b))

/-- CRC_RSTD (R108). -/
def execCrcRstd (s : State) : Answer := complete (s.report .standard s.crc)

/-- CRC_RVND (R109). -/
def execCrcRvnd (s : State) : Answer := complete (s.report .vendor s.crc)

end Sys2Proof.Machine
end

