-- ==== Sys2Proof/Machine/Exception.lean ====
section
/-! DEFINITION. The exception decoder (spec/42_exception_decoder.md): the test R150, the error-code map R151 and the
command FRM_CLASSIFY R152. -/

namespace Sys2Proof.Machine

/-- `isExceptionShape(n, f)`: length 5 and bit 7 of the function byte (R150). -/
def isExceptionShape (n : Nat) (f : Byte) : Bool := decide (n = 5) && f.getLsbD 7

/-- The exception kinds (R151). -/
inductive ExcKind where
  | unsupportedFunction
  | illegalDataAddress
  | illegalDataValue
  | deviceSaveFailure
  | deviceNotInitialized
  | unknownProtocolError
  deriving DecidableEq, Repr

/-- The KIND value of a kind (R31, R151). -/
def ExcKind.value : ExcKind → BitVec 3
  | .unsupportedFunction => 1#3
  | .illegalDataAddress => 2#3
  | .illegalDataValue => 3#3
  | .deviceSaveFailure => 4#3
  | .deviceNotInitialized => 5#3
  | .unknownProtocolError => 6#3

/-- `excKind(code)` (R151): any code but the five named ones is UnknownProtocolError. -/
def excKind (code : Byte) : ExcKind :=
  match code with
  | 1#8 => .unsupportedFunction
  | 2#8 => .illegalDataAddress
  | 3#8 => .illegalDataValue
  | 4#8 => .deviceSaveFailure
  | 32#8 => .deviceNotInitialized
  | _ => .unknownProtocolError

/-- The error code byte `fr[2]` of an exception frame, none for any other frame (R150, R152). -/
def excCode? (fr : List Byte) : Option Byte :=
  match fr with
  | [_, f, code, _, _] => if isExceptionShape 5 f then some code else none
  | _ => none

/-- FRM_CLASSIFY (R152). -/
def execFrmClassify (s : State) : Answer :=
  match excCode? s.buf with
  | some code => complete (s.setExc true { kind := (excKind code).value, code := code })
  | none => complete (s.setExc false Excr.none)

end Sys2Proof.Machine
end

