-- ==== Sys2Proof/Machine/Frame.lean ====
section
/-! DEFINITION. The frame codec (spec/41_frame_codec.md): the dialect R120, R122, the functions R123, R124 and the
commands R125 to R129. The functions take `EXC_DIALECT` as an argument; the commands take it from the instance. -/

namespace Sys2Proof.Machine

/-- `dialectOf(f)`: Vendor above 16, unsigned (R120). -/
def dialectOf (f : Byte) : Dialect := if 16 < f.toNat then .vendor else .standard

/-- `frameDialect(n, f)` (R122). -/
def frameDialect (x : ExcDialect) (n : Nat) (f : Byte) : Dialect :=
  match x with
  | .base => if isExceptionShape n f then dialectOf (f &&& 0x7F#8) else dialectOf f
  | .raw => dialectOf f

/-- `encodeFrame(body)`, defined for a body with an address and a function byte (R123); none for a shorter one. -/
def encodeFrame (x : ExcDialect) (body : List Byte) : Option (List Byte) :=
  match body with
  | _ :: f :: _ => some (body ++ wireBytes (render (frameDialect x (body.length + 2) f) (checksum body)))
  | _ => none

/-- `lastTwo(xs)` (spec/00_scope.md R8). -/
def lastTwo (xs : List Byte) : List Byte := xs.drop (xs.length - 2)

/-- All of a frame but its last two bytes: `take(n - 2, fr)`. -/
def bodyOf (fr : List Byte) : List Byte := fr.take (fr.length - 2)

/-- The function byte of a complete frame; none where `len(fr) < 4` (R124). -/
def frameFunction? (fr : List Byte) : Option Byte :=
  match fr with
  | _ :: f :: _ :: _ :: _ => some f
  | _ => none

/-- `validateFrame(fr)` (R124). -/
def validateFrame (x : ExcDialect) (fr : List Byte) : Bool :=
  match frameFunction? fr with
  | some f => decide (wireBytes (render (frameDialect x fr.length f) (checksum (bodyOf fr))) = lastTwo fr)
  | none => false

/-- The address range of a request: `1..250` (spec/30_encoding.md R84). -/
def addressLegal (a : Byte) : Bool := decide (1 ≤ a.toNat) && decide (a.toNat ≤ 250)

/-- FRM_CLEAR (R125). -/
def execFrmClear (s : State) : Answer := complete (s.replaceBuf [])

/-- FRM_PUSH `b` (R126). -/
def execFrmPush (b : Byte) (s : State) : Answer :=
  if s.len = s.params.maxFrame then raise .overflow s else complete (s.replaceBuf (s.buf.append [b]))

/-- FRM_READ `i` (R127). -/
def execFrmRead (i : Byte) (s : State) : Answer :=
  match s.buf.read? (bufIndex i) with
  | some b => complete (s.setOut (zext16 b))
  | none => raise .index s

/-- FRM_ENCODE (R128), its three checks in the order of spec/60_exceptions.md R174. -/
def execFrmEncode (s : State) : Answer :=
  match s.buf with
  | a :: f :: _ =>
    if !addressLegal a then raise .addr s
    else if s.params.maxFrame < s.len + 2 then raise .overflow s
    else
      let d := frameDialect s.params.excDialect (s.len + 2) f
      let c := checksum s.buf
      complete ((s.replaceBuf (s.buf.append (wireBytes (render d c)))).report d c)
  | _ => raise .short s

/-- FRM_VALIDATE (R129): a frame shorter than 4 bytes is invalid, and then nothing is rendered. -/
def execFrmValidate (s : State) : Answer :=
  match frameFunction? s.buf with
  | some f =>
    let d := frameDialect s.params.excDialect s.len f
    let c := checksum (bodyOf s.buf)
    complete ((s.setValid (validateFrame s.params.excDialect s.buf)).report d c)
  | none => complete (s.setValid false)

end Sys2Proof.Machine
end

