-- ==== Sys2Proof/Machine/Dispatch.lean ====
section
/-! DEFINITION. One arm per command (spec/30_encoding.md R71), each one call of its meaning. -/

namespace Sys2Proof.Machine

def exec (i : Instr) (s : State) : Host.Outcome State Fault Refusal :=
  match i with
  | .crcInit => Sys2Proof.Machine.execCrcInit s
  | .crcFeed b => Sys2Proof.Machine.execCrcFeed b s
  | .crcRstd => Sys2Proof.Machine.execCrcRstd s
  | .crcRvnd => Sys2Proof.Machine.execCrcRvnd s
  | .frmClear => Sys2Proof.Machine.execFrmClear s
  | .frmPush b => Sys2Proof.Machine.execFrmPush b s
  | .frmRead k => Sys2Proof.Machine.execFrmRead k s
  | .frmEncode => Sys2Proof.Machine.execFrmEncode s
  | .frmValidate => Sys2Proof.Machine.execFrmValidate s
  | .frmClassify => Sys2Proof.Machine.execFrmClassify s

end Sys2Proof.Machine
end

