-- ==== Sys2Proof/Machine/HostPort.lean ====
section
/-! DEFINITION. What the block does with one interaction of the host (spec/20_memory.md R63): a command word, a register
read, a reset. -/

namespace Sys2Proof.Machine

/-- One command word: the legality check comes first (spec/60_exceptions.md R174); an illegal word raises E_ILLEGAL and
changes nothing else (spec/30_encoding.md R73); a legal one is performed. DEDUCED (log 9), safe. -/
def performWord (w : Word) (s : State) : Answer :=
  match decode w with
  | .legal i => exec i s
  | .illegal _ => raise .illegal s

/-- One interaction (R63). -/
def performAct (a : HostAct) (s : State) : Answer :=
  match a with
  | .command w => guarded s (performWord w)
  | .read r => guarded s fun t => .next (t.hostRead r)
  | .reset => .next s.assertReset

/-- The next interaction, in the order the host issues them (R60); with none issued the block is idle and its state
"survives idleness unchanged" (R185). DEDUCED (log 2), safe. -/
def serve (s : State) : Answer :=
  match s.port with
  | [] => .next s
  | a :: rest => performAct a { s with port := rest }

/-- The host issues `w` as its next interaction. -/
def State.issueNext (s : State) (w : Word) : State := { s with port := .command w :: s.port }

end Sys2Proof.Machine
end

