-- ==== Sys2Proof/Machine/Step.lean ====
section
/-! DEFINITION. One step: one interaction of the host (spec/20_memory.md R60, R63; spec/00_scope.md R10). The block fetches no
program (spec/10_state.md R32): how commands come to run from reset is said in log 1. -/

namespace Sys2Proof.Machine

/-- One step of the machine. -/
def step (s : State) : Host.Outcome State Fault Refusal := serve s

/-- The command word whose bits are `w` issued as the next interaction on the command port. -/
def State.withFetchWord (s : State) (nbits w : Nat) : State := s.issueNext (tableWord nbits w)

end Sys2Proof.Machine
end

