-- ==== Sys2Proof/WellFormed.lean ====
section
/-! DEFINITION. Which assembler lines are well formed (spec/30_encoding.md R75, R76). An `Instr` needs no check of its
own: its operand is a byte by its type (R72), and a no-operand command has none. The checks stand where an ill-formed
term can be written, on the source line. -/

namespace Sys2Proof

/-- How many operands a line with this mnemonic takes: at least, and at most (`none`: no bound). R75: one for the three
commands with an operand, none for the other seven. R76: at least one byte for FRM_LOAD and CRC_OVER, an address and a
function for ENCODE, none for CHECK. -/
def Mnemonic.arity : Mnemonic → Nat × Option Nat
  | .crcInit | .crcRstd | .crcRvnd | .frmClear | .frmEncode | .frmValidate | .frmClassify => (0, some 0)
  | .crcFeed | .frmPush | .frmRead => (1, some 1)
  | .frmLoad | .crcOver => (1, none)
  | .encode => (2, none)
  | .check => (0, some 0)

/-- Enough operands for the mnemonic. -/
def Source.enough (l : Source) : Bool := decide (l.mnemonic.arity.1 ≤ l.operands.length)

/-- No operand that the mnemonic does not take ("an operand given to a no-operand command" is rejected, R75). -/
def Source.noneExtra (l : Source) : Bool :=
  match l.mnemonic.arity.2 with
  | some most => decide (l.operands.length ≤ most)
  | none => true

/-- Every operand is a number "from 0 to 255" (R75). -/
def Source.inRange (l : Source) : Bool := l.operands.all fun n => decide (n ≤ 255)

/-- A line an assembler accepts (R75). -/
def Source.wf (l : Source) : Bool := l.enough && l.noneExtra && l.inRange

end Sys2Proof
end

