-- ==== Sys2Proof/Machine/Assembler.lean ====
section
/-! DEFINITION. The assembler of spec/30_encoding.md R75 and the pseudo-instructions of R76: from a line of text to the
commands it stands for. What R75 and R76 leave open of the text is fixed here, DESIGN CHOICE (log 14), safe. -/

namespace Sys2Proof.Machine

/-! The pseudo-instructions as sequences of commands (R76). -/

/-- `FRM_LOAD b0, ..., bk`: FRM_CLEAR, then FRM_PUSH of each byte. -/
def frmLoad (bs : List Byte) : List Instr := .frmClear :: bs.map .frmPush

/-- `CRC_OVER b0, ..., bk`: CRC_INIT, then CRC_FEED of each byte. -/
def crcOver (bs : List Byte) : List Instr := .crcInit :: bs.map .crcFeed

/-- `ENCODE a, f, p0, ..., pk`: FRM_LOAD of the body, then FRM_ENCODE. -/
def encodeRequest (body : List Byte) : List Instr := frmLoad body ++ [.frmEncode]

/-- `CHECK`: FRM_CLASSIFY, then FRM_VALIDATE. -/
def checkFrame : List Instr := [.frmClassify, .frmValidate]

/-- Why a line is rejected. -/
inductive AsmError where
  /-- The line begins with none of the fourteen names. -/
  | unknownMnemonic
  /-- An operand is not a decimal or `0x` hexadecimal number. -/
  | notANumber
  /-- Too few operands, too many, or one outside 0 to 255 (R75). -/
  | illFormed (l : Source)
  deriving DecidableEq, Repr

/-- The operand of a one-operand command. -/
def oneOperand (mk : Byte → Instr) (bs : List Byte) : List Instr := bs.map mk

/-- The commands a well-formed source line stands for. -/
def expand (m : Mnemonic) (bs : List Byte) : List Instr :=
  match m with
  | .crcInit => [.crcInit]
  | .crcFeed => oneOperand .crcFeed bs
  | .crcRstd => [.crcRstd]
  | .crcRvnd => [.crcRvnd]
  | .frmClear => [.frmClear]
  | .frmPush => oneOperand .frmPush bs
  | .frmRead => oneOperand .frmRead bs
  | .frmEncode => [.frmEncode]
  | .frmValidate => [.frmValidate]
  | .frmClassify => [.frmClassify]
  | .frmLoad => frmLoad bs
  | .crcOver => crcOver bs
  | .encode => encodeRequest bs
  | .check => checkFrame

/-- A source line checked and expanded. -/
def assembleSource (l : Source) : Except AsmError (List Instr) :=
  if l.wf then .ok (expand l.mnemonic (l.operands.map (BitVec.ofNat 8))) else .error (.illFormed l)

/-! The text of a line (R75). -/

/-- The names as they are written (R71, R76). -/
def mnemonicText : Mnemonic → List Char
  | .crcInit => "CRC_INIT".toList
  | .crcFeed => "CRC_FEED".toList
  | .crcRstd => "CRC_RSTD".toList
  | .crcRvnd => "CRC_RVND".toList
  | .frmClear => "FRM_CLEAR".toList
  | .frmPush => "FRM_PUSH".toList
  | .frmRead => "FRM_READ".toList
  | .frmEncode => "FRM_ENCODE".toList
  | .frmValidate => "FRM_VALIDATE".toList
  | .frmClassify => "FRM_CLASSIFY".toList
  | .frmLoad => "FRM_LOAD".toList
  | .crcOver => "CRC_OVER".toList
  | .encode => "ENCODE".toList
  | .check => "CHECK".toList

/-- All fourteen. -/
def allMnemonics : List Mnemonic :=
  [.crcInit, .crcFeed, .crcRstd, .crcRvnd, .frmClear, .frmPush, .frmRead, .frmEncode, .frmValidate, .frmClassify,
    .frmLoad, .crcOver, .encode, .check]

/-- A space or a tab. -/
def isBlank (c : Char) : Bool := c == ' ' || c == '\t'

/-- The text without blanks at its two ends. -/
def trimBlanks (cs : List Char) : List Char := ((cs.dropWhile isBlank).reverse.dropWhile isBlank).reverse

/-- The text before a comment: "A comment starts with `;`" (R75). -/
def dropComment (cs : List Char) : List Char := cs.takeWhile (· != ';')

/-- The pieces between commas. -/
def splitCommas : List Char → List (List Char)
  | [] => [[]]
  | c :: cs =>
    match splitCommas cs with
    | [] => [[c]]
    | p :: ps => if c == ',' then [] :: p :: ps else (c :: p) :: ps

/-- A digit in the given base (10 or 16), capitals or not. -/
def digit? (base : Nat) (c : Char) : Option Nat :=
  let n := c.toNat
  let v :=
    if 48 ≤ n ∧ n ≤ 57 then n - 48
    else if 97 ≤ n ∧ n ≤ 102 then n - 87
    else if 65 ≤ n ∧ n ≤ 70 then n - 55
    else base
  if v < base then some v else none

/-- The digits of a number, most significant first, after the value read so far. -/
def digits? (base acc : Nat) : List Char → Option Nat
  | [] => some acc
  | c :: cs =>
    match digit? base c with
    | some d => digits? base (base * acc + d) cs
    | none => none

/-- "a decimal or `0x` hexadecimal number" (R75). -/
def number? (cs : List Char) : Option Nat :=
  match cs with
  | [] => none
  | '0' :: 'x' :: ds => if ds.isEmpty then none else digits? 16 0 ds
  | ds => digits? 10 0 ds

/-- The numbers of all the pieces, none if one of them is no number. -/
def numbers? : List (List Char) → Option (List Nat)
  | [] => some []
  | p :: ps =>
    match number? (trimBlanks p), numbers? ps with
    | some n, some ns => some (n :: ns)
    | _, _ => none

/-- The operands after the mnemonic: none, or numbers between commas. -/
def operands? (cs : List Char) : Option (List Nat) :=
  if (trimBlanks cs).isEmpty then some [] else numbers? (splitCommas cs)

/-- One line of text: nothing but blanks and a comment stands for no command; otherwise a mnemonic and its operands
(R75, R76). -/
def assembleLine (line : List Char) : Except AsmError (List Instr) :=
  let cs := trimBlanks (dropComment line)
  if cs.isEmpty then .ok []
  else
    match allMnemonics.find? fun m => mnemonicText m == cs.takeWhile (fun c => !isBlank c) with
    | none => .error .unknownMnemonic
    | some m =>
      match operands? (cs.dropWhile fun c => !isBlank c) with
      | none => .error .notANumber
      | some ns => assembleSource { mnemonic := m, operands := ns }

/-- One digit below 16 as text. -/
def hexDigit (n : Nat) : Char := Char.ofNat (if n < 10 then 48 + n else 87 + n)

/-- A byte as `0x` and two digits. -/
def byteText (b : Byte) : List Char := ['0', 'x', hexDigit (b.toNat / 16), hexDigit (b.toNat % 16)]

/-- A command as a line of text, in the form of R75's own examples (`CRC_FEED 0x03`, `FRM_ENCODE`). -/
def lineOf (i : Instr) : List Char :=
  match i with
  | .crcInit => mnemonicText .crcInit
  | .crcFeed b => mnemonicText .crcFeed ++ ' ' :: byteText b
  | .crcRstd => mnemonicText .crcRstd
  | .crcRvnd => mnemonicText .crcRvnd
  | .frmClear => mnemonicText .frmClear
  | .frmPush b => mnemonicText .frmPush ++ ' ' :: byteText b
  | .frmRead k => mnemonicText .frmRead ++ ' ' :: byteText k
  | .frmEncode => mnemonicText .frmEncode
  | .frmValidate => mnemonicText .frmValidate
  | .frmClassify => mnemonicText .frmClassify

end Sys2Proof.Machine
end

