-- ==== Sys2Proof/Safety.lean ====
section
/-! DEFINITION. The terms claims are stated in: the invariant of spec/10_state.md R37, a run without errors
(spec/70_reset_and_hazards.md R201), and sequences of commands issued on the port. -/

namespace Sys2Proof.Machine

/-- The invariants of R37 that speak of one state, with the range R6 gives the parameters. (c) and (d) are split into
their parts; (e), which speaks of a history, leaves here that an error in `ERR` has set `STICKY` (R172); `errDefined`
is R28's "The codes 6 to 15 are never written". -/
structure State.Inv (s : State) : Prop where
  paramsLegal : s.params.Legal
  /-- R37 (a). -/
  bufFits : s.buf.wf s.params = true
  /-- R37 (b). -/
  validIsTrue : s.status.valid = true → validateFrame s.params.excDialect s.buf = true
  /-- R37 (c). -/
  excIsTrue : s.status.exc = true →
    ∃ code, excCode? s.buf = some code ∧ s.excr = { kind := (excKind code).value, code := code }
  /-- R37 (d). -/
  noExcClears : s.status.exc = false → s.excr = Excr.none
  errDefined : s.status.err.toNat ≤ 5
  errIsSticky : s.status.err ≠ 0#4 → s.status.sticky = true

/-- A state that holds no value the spec calls never written (R28, R31): the block then acts on whatever the host
does. -/
abbrev State.Sound (s : State) : Prop := s.reservedValue? = none

/-- No command has failed since reset, as one bit shows it (R29, R201). -/
abbrev State.ErrorFree (s : State) : Prop := s.status.sticky = false

/-- The run of `k` steps from a state: the host's own `Host.Core.run` of this machine, at the type of its states. -/
def runFor (k : Nat) (s : State) : Answer := core.run k s

/-- What a host or a proof observes of a state at the end of a run (R201). -/
def State.observation (s : State) : Word × List Byte × Word × Word × Word × List Word :=
  (s.crc, s.buf, s.out, s.status.word, s.excr.word, s.reads)

/-- The state with exactly these commands still to issue. -/
def State.issue (s : State) (is : List Instr) : State := { s with port := is.map fun i => .command (encode i) }

/-- The bytes that a sequence of commands feeds to the CRC engine. -/
def fedBytes : List Instr → List Byte
  | [] => []
  | .crcFeed b :: is => b :: fedBytes is
  | _ :: is => fedBytes is

/-- The host's read-out of `n` frame bytes (spec/70_reset_and_hazards.md R197): for each index in order, FRM_READ and a
read of `OUT`, which is register address 3. -/
def readOut (n : Nat) : List HostAct :=
  (List.range n).flatMap fun i => [.command (encode (.frmRead (BitVec.ofNat 8 i))), .read 3#3]

/-- `fr` with bit `k` of its byte `i` flipped. -/
def flipBit (fr : List Byte) (i k : Nat) : List Byte := fr.modify i fun b => b ^^^ (1#8 <<< k)

end Sys2Proof.Machine
end

