-- ==== Sys2Proof/Certificates/Slice0/Obligations.lean ====
section
/-! DEFINITION. The statements for the provers, in the order of spec/: encodings, the host's interface, the CRC engine,
the frame codec, the exception decoder, errors, the whole machine. A next state is written out as the state before with
the fields the rule writes, so that each such equation is the command's result and its frame at once. -/

open Sys2Proof Sys2Proof.Machine

/-! Encodings (spec/30_encoding.md). -/

/-- R70 to R72: a word decodes to a command exactly when it is that command's word. So decoding inverts encoding, every
operand bit is kept, and no word has two meanings. -/
def Obligations.DecodeInvertsEncodeExactly : Prop :=
  ∀ (w : Word) (i : Instr), decode w = .legal i ↔ w = encode i

/-- R73 whole: which words are illegal, that every other word is a command, and that an illegal word raises E_ILLEGAL
and changes nothing else. `0x0000` and `0xFFFF` are among them. -/
def Obligations.IllegalWordsRaiseAndChangeNothingElse : Prop :=
  let isIllegal (w : Word) : Prop :=
    w.extractLsb' 8 8 ∉
        [0x01#8, 0x02#8, 0x03#8, 0x04#8, 0x10#8, 0x11#8, 0x12#8, 0x20#8, 0x21#8, 0x30#8] ∨
      (w.extractLsb' 8 8 ∈ [0x01#8, 0x03#8, 0x04#8, 0x10#8, 0x20#8, 0x21#8, 0x30#8] ∧ w.extractLsb' 0 8 ≠ 0x00#8)
  (∀ (w : Word) (s : State), isIllegal w →
    performWord w s = .next { s with status := { s.status with err := 1#4, sticky := true } }) ∧
  (∀ w : Word, ¬ isIllegal w → ∃ i, decode w = .legal i) ∧
  isIllegal 0x0000#16 ∧ isIllegal 0xFFFF#16

/-- R74, an inference the spec marks as its own: of the 65,536 words 775 are legal and the other 64,761 illegal. -/
def Obligations.LegalWordsAre775 : Prop :=
  (List.range 65536).countP (fun n => (decode (BitVec.ofNat 16 n)).instr?.isSome) = 775 ∧
  (List.range 65536).countP (fun n => (decode (BitVec.ofNat 16 n)).instr?.isNone) = 64761

/-- A few words written out from R71, one for each family, a neighbour of each and the two ends of an operand. -/
def Obligations.SampleWordsDecode : Prop :=
  decode 0b0000000100000000#16 = .legal .crcInit ∧
  decode 0b0000001000000011#16 = .legal (.crcFeed 3#8) ∧
  decode 0b0001000111111111#16 = .legal (.frmPush 255#8) ∧
  decode 0b0001001000000000#16 = .legal (.frmRead 0#8) ∧
  decode 0b0010000100000000#16 = .legal .frmValidate ∧
  decode 0b0011000000000000#16 = .legal .frmClassify ∧
  decode 0b0010000000000001#16 = .illegal (.operandNotZero 0x20#8 1#8) ∧
  decode 0b0010001000000000#16 = .illegal (.unassignedOp 0x22#8)

/-- R75: a command written as a line of text assembles to itself; an operand outside 0 to 255, one given to a no-operand
command and a missing one are rejected; what follows `;` is no part of the line. The spelling of the lines is the
model's own where R75 leaves it open (log 14). -/
def Obligations.AssemblerReadsBackEveryCommand : Prop :=
  (∀ i : Instr, assembleLine (lineOf i) = .ok [i]) ∧
  (∀ (i : Instr) (note : List Char), assembleLine (lineOf i ++ ';' :: note) = .ok [i]) ∧
  (∀ (m : Mnemonic) (ns : List Nat), (∃ n ∈ ns, 255 < n) →
    assembleSource { mnemonic := m, operands := ns } = .error (.illFormed { mnemonic := m, operands := ns })) ∧
  (∀ m ∈ [Mnemonic.crcInit, .crcRstd, .crcRvnd, .frmClear, .frmEncode, .frmValidate, .frmClassify], ∀ ns : List Nat,
    ns ≠ [] → assembleSource { mnemonic := m, operands := ns } = .error (.illFormed { mnemonic := m, operands := ns })) ∧
  (∀ m ∈ [Mnemonic.crcFeed, .frmPush, .frmRead], ∀ ns : List Nat,
    ns.length ≠ 1 → assembleSource { mnemonic := m, operands := ns } = .error (.illFormed { mnemonic := m, operands := ns }))

/-! The host's interface and reset (spec/20_memory.md, spec/70_reset_and_hazards.md, spec/10_state.md). -/

/-- A step performs the word the host has issued next, legal or not: R10, R60, R63. With nothing else around it: the
word has left the port, and the command acts on the rest of the state. The port as a list in the state is the model's
own (log 1), and so is the premise that no reserved value is held (log 8). -/
def Obligations.StepPerformsTheIssuedCommand : Prop :=
  (∀ (s : State) (w : Word) (rest : List HostAct), s.Sound → s.port = .command w :: rest →
    step s = performWord w { s with port := rest }) ∧
  (∀ (s : State) (w : Word) (i : Instr) (rest : List HostAct), s.Sound → s.port = .command w :: rest →
    decode w = .legal i → step s = exec i { s with port := rest }) ∧
  (∀ (s : State) (w : Word) (i : Instr), s.Sound → decode w = .legal i → step (s.issueNext w) = exec i s) ∧
  (∀ (s : State) (w : Nat) (i : Instr), s.Sound → decodeTableWord 16 w = some i →
    step (s.withFetchWord 16 w) = exec i s)

/-- R51: the register read map, and that a read changes nothing but what the host has read. The record of the values
read is the model's own (log 3), and so is the premise that no reserved value is held (log 8). -/
def Obligations.RegisterReadMapHasNoSideEffect : Prop :=
  (∀ s : State,
    s.readReg 0#3 = s.status.word ∧ s.readReg 1#3 = s.crc ∧
    s.readReg 2#3 = (BitVec.ofNat 8 s.buf.length).setWidth 16 ∧ s.readReg 3#3 = s.out ∧
    s.readReg 4#3 = s.excr.word ∧ s.readReg 5#3 = 0x0000#16 ∧ s.readReg 6#3 = 0x0000#16 ∧ s.readReg 7#3 = 0x0000#16) ∧
  (∀ (s : State) (a : BitVec 3) (rest : List HostAct), s.Sound → s.port = .read a :: rest →
    step s = .next { s with port := rest, reads := s.reads ++ [s.readReg a] })

/-- The bits of STATUS (R24) and EXCR (R31) where the host reads them, and R30 whole: the reserved bits read 0 in every
state. -/
def Obligations.StatusAndExcrBitsReadInPlace : Prop :=
  ∀ s : State,
    (s.readReg 0#3).getLsbD 0 = s.status.valid ∧
    (s.readReg 0#3).getLsbD 1 = decide (s.status.dialect = .vendor) ∧
    (s.readReg 0#3).getLsbD 2 = s.status.exc ∧
    (s.readReg 0#3).getLsbD 3 = false ∧
    (s.readReg 0#3).extractLsb' 4 4 = s.status.err ∧
    (s.readReg 0#3).getLsbD 8 = s.status.sticky ∧
    (s.readReg 0#3).extractLsb' 9 7 = 0#7 ∧
    (s.readReg 4#3).extractLsb' 0 3 = s.excr.kind ∧
    (s.readReg 4#3).extractLsb' 3 5 = 0#5 ∧
    (s.readReg 4#3).extractLsb' 8 8 = s.excr.code

/-- R36 and R191 whole: a reset sets every piece of state to its reset value, whatever it was, and leaves the
parameters; and what the host reads of an instance after reset. -/
def Obligations.ResetSetsEveryRegister : Prop :=
  (∀ (s : State) (rest : List HostAct), s.port = .reset :: rest →
    ∃ t, step s = .next t ∧ t.crc = 0xFFFF#16 ∧ t.buf = [] ∧ t.out = 0x0000#16 ∧
      t.status = { valid := false, dialect := .standard, exc := false, err := 0#4, sticky := false } ∧
      t.excr = { kind := 0#3, code := 0x00#8 } ∧ t.params = s.params) ∧
  (∀ p : Params, (State.init p).readReg 0#3 = 0x0000#16 ∧ (State.init p).readReg 1#3 = 0xFFFF#16 ∧
    (State.init p).readReg 2#3 = 0x0000#16 ∧ (State.init p).readReg 3#3 = 0x0000#16 ∧
    (State.init p).readReg 4#3 = 0x0000#16 ∧ (State.init p).buf = [])

/-- R185: with nothing issued the state survives unchanged. That such a step is a step at all is the model's reading
(log 2). -/
def Obligations.IdleStepChangesNothing : Prop :=
  ∀ s : State, s.port = [] → step s = .next s

/-- I13 and I14: a command or a register read in a state that holds a reserved error code or the unused kind is a fault.
Which interactions the spec's fault covers is the model's reading (log 8). -/
def Obligations.ReservedValuesAreFaults : Prop :=
  ∀ (s : State) (act : HostAct) (rest : List HostAct), s.port = act :: rest → act ≠ .reset →
    (5 < s.status.err.toNat → step s = .fault (.reservedErr s.status.err)) ∧
    (s.status.err.toNat ≤ 5 → s.excr.kind = 7#3 → step s = .fault .reservedKind)

/-- R60: a register read issued after a command sees that command's writes. The port as a list in the state (log 1), the
record of the values read (log 3) and the premise that no reserved value is held (log 8) are the model's own. -/
def Obligations.ReadAfterCommandSeesItsWrites : Prop :=
  ∀ (s t : State) (i : Instr) (a : BitVec 3) (rest : List HostAct), s.Sound →
    s.port = .command (encode i) :: .read a :: rest → exec i { s with port := rest } = .next t →
    runFor 2 s = .next { t with reads := t.reads ++ [t.readReg a] }

/-! The CRC engine (spec/40_crc.md). -/

/-- R100 whole, on numbers: the low bit is tested before the shift. -/
def Obligations.CrcBitStep : Prop :=
  (∀ c : Word, (crcBit c).toNat = if c.toNat % 2 = 1 then c.toNat / 2 ^^^ 0xA001 else c.toNat / 2) ∧
  crcBit 0x0001#16 = 0xA001#16 ∧ crcBit 0x0002#16 = 0x0001#16 ∧ crcBit 0xFFFF#16 = 0xDFFE#16 ∧
  crcBit 0x0000#16 = 0x0000#16

/-- R101: a byte step is the byte into the low 8 bits, then eight bit steps. -/
def Obligations.CrcByteStepIsEightBitSteps : Prop :=
  ∀ (c : Word) (b : Byte), crcStep8 c b = crcBit^[8] (c ^^^ b.setWidth 16)

/-- R102 whole: the checksum is the left fold from `0xFFFF`, with nothing done to its result. -/
def Obligations.ChecksumFoldsBytes : Prop :=
  checksum [] = 0xFFFF#16 ∧
  (∀ (bs : List Byte) (b : Byte), checksum (bs ++ [b]) = crcStep8 (checksum bs) b) ∧
  checksum [1#8, 3#8, 1#8] = 0x30E1#16

/-- R101's "A table-driven implementation with the same results is equivalent": the usual design with a table of 256
words, one look-up a byte, computes the same value over every byte sequence from every running value. -/
def Obligations.TableDrivenEngineIsEquivalent : Prop :=
  let table : List Word := (List.range 256).map fun n => crcStep8 0x0000#16 (BitVec.ofNat 8 n)
  ∀ (bs : List Byte) (c : Word),
    crcFrom c bs = bs.foldl (fun (r : Word) (b : Byte) => (r >>> 8) ^^^ table.getD (r.setWidth 8 ^^^ b).toNat 0x0000#16) c

/-- The laws of R111, inferences the spec marks as its own: linearity of the bit step, the effect of an error pattern
of equal length on a checksum, and that no single-bit pattern of any length cancels. -/
def Obligations.ChecksumIsLinear : Prop :=
  (∀ a b : Word, crcBit (a ^^^ b) = crcBit a ^^^ crcBit b) ∧
  (∀ xs es : List Byte, xs.length = es.length →
    checksum (List.zipWith (· ^^^ ·) xs es) = checksum xs ^^^ crc0 es) ∧
  (∀ n i k : Nat, i < n → k < 8 → crc0 (flipBit (List.replicate n 0x00#8) i k) ≠ 0x0000#16)

/-- R103, R104, R105 whole, on numbers, and the packing of R55: `OUT` is the checksum after a Vendor rendering and the
checksum with its bytes swapped after a Standard one. -/
def Obligations.RenderingsAndTheirPacking : Prop :=
  ∀ c : Word,
    (renderVendorOrder c).1.toNat = c.toNat / 256 ∧ (renderVendorOrder c).2.toNat = c.toNat % 256 ∧
    (renderStandardOrder c).1.toNat = c.toNat % 256 ∧ (renderStandardOrder c).2.toNat = c.toNat / 256 ∧
    render .vendor c = renderVendorOrder c ∧ render .standard c = renderStandardOrder c ∧
    packOut (render .vendor c) = c ∧
    (packOut (render .standard c)).toNat = c.toNat % 256 * 256 + c.toNat / 256

/-- R106 whole. -/
def Obligations.CrcInitResult : Prop :=
  encode .crcInit = 0x0100#16 ∧
  ∀ s : State, exec .crcInit s = .next { s with crc := 0xFFFF#16, status := { s.status with err := 0#4 } }

/-- R107 whole. -/
def Obligations.CrcFeedResult : Prop :=
  (∀ b : Byte, encode (.crcFeed b) = 0x02#8 ++ b) ∧
  (∀ (b : Byte) (s : State),
    exec (.crcFeed b) s = .next { s with crc := crcStep8 s.crc b, status := { s.status with err := 0#4 } }) ∧
  crcStep8 0x0000#16 0x00#8 = 0x0000#16 ∧ crcStep8 0xFFFF#16 0xFF#8 = 0x00FF#16 ∧
  checksum [0xFF#8, 0xFF#8] = 0x0000#16 ∧ crcStep8 0xFFFF#16 0x01#8 = 0x807E#16

/-- R108 whole. -/
def Obligations.CrcRstdResult : Prop :=
  encode .crcRstd = 0x0300#16 ∧
  ∀ s : State, exec .crcRstd s = .next
    { s with out := s.crc.extractLsb' 0 8 ++ s.crc.extractLsb' 8 8
             status := { s.status with dialect := .standard, err := 0#4 } }

/-- R109 whole: `OUT = CRC` always. -/
def Obligations.CrcRvndResult : Prop :=
  encode .crcRvnd = 0x0400#16 ∧
  ∀ s : State, exec .crcRvnd s = .next
    { s with out := s.crc, status := { s.status with dialect := .vendor, err := 0#4 } }

/-- R110, an inference the spec marks as its own, and more: after CRC_INIT, whatever commands follow but a second
CRC_INIT, `CRC` is the checksum of the bytes fed. The port (log 1) and the premise (log 8) are the model's own. -/
def Obligations.StreamingEqualsBatch : Prop :=
  ∀ (s : State) (is : List Instr), s.Sound → (∀ i ∈ is, i ≠ .crcInit) →
    ∃ t, runFor (is.length + 1) (s.issue (.crcInit :: is)) = .next t ∧ t.crc = checksum (fedBytes is)

/-- The catalogue's check value, which the spec marks as general knowledge and re-derives (R112). -/
def Obligations.CatalogueCheckValue : Prop :=
  checksum [0x31#8, 0x32#8, 0x33#8, 0x34#8, 0x35#8, 0x36#8, 0x37#8, 0x38#8, 0x39#8] = 0x4B37#16

/-! The frame codec (spec/41_frame_codec.md). -/

/-- R120 whole. -/
def Obligations.DialectThreshold : Prop :=
  (∀ f : Byte, dialectOf f = .vendor ↔ 16 < f.toNat) ∧ (∀ f : Byte, dialectOf f = .standard ↔ f.toNat ≤ 16) ∧
  (∀ f : Byte, 0x80 ≤ f.toNat → dialectOf f = .vendor) ∧
  Dialect.bit .standard = 0#1 ∧ Dialect.bit .vendor = 1#1

/-- R122 whole, on numbers: under Base a frame of 5 bytes with bit 7 of its function byte set goes by the base function,
every other frame and every frame under Raw by the byte as it stands. -/
def Obligations.FrameDialectByParameter : Prop :=
  ∀ (n : Nat) (f : Byte),
    (frameDialect .raw n f = .vendor ↔ 16 < f.toNat) ∧
    (frameDialect .base n f = .vendor ↔ if n = 5 ∧ 128 ≤ f.toNat then 16 < f.toNat - 128 else 16 < f.toNat)

/-- R123 whole: the body, then the checksum in the frame's dialect order. -/
def Obligations.EncodeFrameAppendsTheChecksum : Prop :=
  (∀ (x : ExcDialect) (a f : Byte) (p : List Byte),
    encodeFrame x (a :: f :: p) = some (a :: f :: p ++
      (if frameDialect x (p.length + 4) f = .vendor
        then [(checksum (a :: f :: p)).extractLsb' 8 8, (checksum (a :: f :: p)).extractLsb' 0 8]
        else [(checksum (a :: f :: p)).extractLsb' 0 8, (checksum (a :: f :: p)).extractLsb' 8 8]))) ∧
  (∀ x : ExcDialect, encodeFrame x [1#8, 3#8, 0#8, 2#8, 0#8, 2#8] =
    some [1#8, 3#8, 0#8, 2#8, 0#8, 2#8, 0x65#8, 0xCB#8])

/-- R125 whole. -/
def Obligations.FrmClearResult : Prop :=
  encode .frmClear = 0x1000#16 ∧
  ∀ s : State, exec .frmClear s = .next
    { s with buf := [], status := { s.status with valid := false, exc := false, err := 0#4 }
             excr := { kind := 0#3, code := 0x00#8 } }

/-- R126 whole. -/
def Obligations.FrmPushResult : Prop :=
  (∀ b : Byte, encode (.frmPush b) = 0x11#8 ++ b) ∧
  (∀ (b : Byte) (s : State), s.buf.length ≠ s.params.maxFrame → exec (.frmPush b) s = .next
    { s with buf := s.buf ++ [b], status := { s.status with valid := false, exc := false, err := 0#4 }
             excr := { kind := 0#3, code := 0x00#8 } }) ∧
  (∀ (b : Byte) (s : State), s.buf.length = s.params.maxFrame → exec (.frmPush b) s = .next
    { s with status := { s.status with err := 2#4, sticky := true } })

/-- R127 whole. -/
def Obligations.FrmReadResult : Prop :=
  (∀ k : Byte, encode (.frmRead k) = 0x12#8 ++ k) ∧
  (∀ (k : Byte) (s : State) (h : k.toNat < s.buf.length), exec (.frmRead k) s = .next
    { s with out := (s.buf[k.toNat]'h).setWidth 16, status := { s.status with err := 0#4 } }) ∧
  (∀ (k : Byte) (s : State), s.buf.length ≤ k.toNat → exec (.frmRead k) s = .next
    { s with status := { s.status with err := 5#4, sticky := true } }) ∧
  (∀ s : State, s.buf.length ≤ 255 → exec (.frmRead 255#8) s = .next
    { s with status := { s.status with err := 5#4, sticky := true } })

/-- R128 whole: the three errors in their order, and the frame it builds. -/
def Obligations.FrmEncodeResult : Prop :=
  encode .frmEncode = 0x2000#16 ∧
  (∀ s : State, s.buf.length < 2 → exec .frmEncode s = .next
    { s with status := { s.status with err := 3#4, sticky := true } }) ∧
  (∀ (s : State) (a f : Byte) (p : List Byte), s.buf = a :: f :: p → (a.toNat < 1 ∨ 250 < a.toNat) →
    exec .frmEncode s = .next { s with status := { s.status with err := 4#4, sticky := true } }) ∧
  (∀ (s : State) (a f : Byte) (p : List Byte), s.buf = a :: f :: p → 1 ≤ a.toNat → a.toNat ≤ 250 →
    s.params.maxFrame < s.buf.length + 2 →
    exec .frmEncode s = .next { s with status := { s.status with err := 2#4, sticky := true } }) ∧
  (∀ (s : State) (a f c0 c1 : Byte) (p : List Byte), s.buf = a :: f :: p → 1 ≤ a.toNat → a.toNat ≤ 250 →
    s.buf.length + 2 ≤ s.params.maxFrame →
    (c0, c1) = render (frameDialect s.params.excDialect (s.buf.length + 2) f) (checksum s.buf) →
    exec .frmEncode s = .next
      { s with buf := s.buf ++ [c0, c1], out := c0 ++ c1
               status := { s.status with
                 valid := false, dialect := frameDialect s.params.excDialect (s.buf.length + 2) f
                 exc := false, err := 0#4 }
               excr := { kind := 0#3, code := 0x00#8 } })

/-- R129 whole. -/
def Obligations.FrmValidateResult : Prop :=
  encode .frmValidate = 0x2100#16 ∧
  (∀ s : State, s.buf.length < 4 → exec .frmValidate s = .next
    { s with status := { s.status with valid := false, err := 0#4 } }) ∧
  (∀ (s : State) (f c0 c1 : Byte), 4 ≤ s.buf.length → s.buf[1]? = some f →
    (c0, c1) = render (frameDialect s.params.excDialect s.buf.length f) (checksum (s.buf.take (s.buf.length - 2))) →
    exec .frmValidate s = .next
      { s with out := c0 ++ c1
               status := { s.status with
                 valid := decide ([c0, c1] = s.buf.drop (s.buf.length - 2))
                 dialect := frameDialect s.params.excDialect s.buf.length f, err := 0#4 } })

/-- R123, R124, R128, R129: the commands compute the functions of the source. FRM_ENCODE that raises no error leaves
`encodeFrame` of the old buffer, and FRM_VALIDATE leaves `validateFrame` of the buffer in VALID. -/
def Obligations.CommandsComputeTheFrameFunctions : Prop :=
  (∀ s t : State, exec .frmEncode s = .next t → t.status.err = 0#4 →
    encodeFrame s.params.excDialect s.buf = some t.buf) ∧
  (∀ s t : State, exec .frmValidate s = .next t → t.status.valid = validateFrame s.params.excDialect s.buf)

/-- R130, an inference the spec marks as its own: what is encoded validates, as functions and as commands. -/
def Obligations.EncodedFramesValidate : Prop :=
  (∀ (x : ExcDialect) (body : List Byte), 2 ≤ body.length →
    ∃ fr, encodeFrame x body = some fr ∧ validateFrame x fr = true) ∧
  (∀ s t : State, exec .frmEncode s = .next t → t.status.err = 0#4 →
    ∃ u, exec .frmValidate t = .next u ∧ u.status.valid = true)

/-- R131, an inference the spec marks as its own: one flipped bit anywhere in a valid frame of up to 255 bytes makes
it invalid, under both settings. -/
def Obligations.SingleBitErrorsAreDetected : Prop :=
  ∀ (x : ExcDialect) (fr : List Byte) (i k : Nat), validateFrame x fr = true → fr.length ≤ 255 →
    i < fr.length → k < 8 → validateFrame x (flipBit fr i k) = false

/-- R132, an inference the spec marks as its own: the numeric form of validation. -/
def Obligations.ValidationAsNumbers : Prop :=
  ∀ (x : ExcDialect) (fr : List Byte) (f r0 r1 : Byte), 4 ≤ fr.length → fr[1]? = some f →
    fr[fr.length - 2]? = some r0 → fr[fr.length - 1]? = some r1 →
    (validateFrame x fr = true ↔
      (if frameDialect x fr.length f = .vendor then r0.toNat * 256 + r1.toNat else r0.toNat + r1.toNat * 256) =
        (checksum (fr.take (fr.length - 2))).toNat)

/-! The exception decoder (spec/42_exception_decoder.md). -/

/-- R151 whole: the map, and that it never gives 0 or 7. -/
def Obligations.ExceptionKindMap : Prop :=
  ∀ code : Byte,
    (excKind code).value.toNat =
      (if code.toNat = 32 then 5 else if 1 ≤ code.toNat ∧ code.toNat ≤ 4 then code.toNat else 6) ∧
    (excKind code).value ≠ 0#3 ∧ (excKind code).value ≠ 7#3 ∧
    (excKind code = .unsupportedFunction ↔ code.toNat = 1) ∧ (excKind code = .illegalDataAddress ↔ code.toNat = 2) ∧
    (excKind code = .illegalDataValue ↔ code.toNat = 3) ∧ (excKind code = .deviceSaveFailure ↔ code.toNat = 4) ∧
    (excKind code = .deviceNotInitialized ↔ code.toNat = 32)

/-- R152 whole. -/
def Obligations.FrmClassifyResult : Prop :=
  encode .frmClassify = 0x3000#16 ∧
  (∀ (s : State) (a f code x y : Byte), s.buf = [a, f, code, x, y] → 128 ≤ f.toNat → exec .frmClassify s = .next
    { s with status := { s.status with exc := true, err := 0#4 }
             excr := { kind := (excKind code).value, code := code } }) ∧
  (∀ s : State, (s.buf.length = 5 → ∀ f, s.buf[1]? = some f → f.toNat < 128) → exec .frmClassify s = .next
    { s with status := { s.status with exc := false, err := 0#4 }, excr := { kind := 0#3, code := 0x00#8 } })

/-- R153, an inference the spec marks as its own: a frame whose length is not 5 never classifies as an exception,
whatever its bytes. -/
def Obligations.OtherLengthsNeverClassify : Prop :=
  ∀ s : State, s.buf.length ≠ 5 →
    ∃ t, exec .frmClassify s = .next t ∧ t.status.exc = false ∧ t.readReg 4#3 = 0x0000#16

/-- R156, an inference the spec marks as its own: an exception frame for a standard function carries its checksum low
byte first under Base, high byte first under Raw. -/
def Obligations.ExceptionFrameChecksumOrder : Prop :=
  (∀ (a f code : Byte) (c : Word), 128 ≤ f.toNat → f.toNat ≤ 128 + 16 → c = checksum [a, f, code] →
    encodeFrame .base [a, f, code] = some [a, f, code, c.extractLsb' 0 8, c.extractLsb' 8 8] ∧
    encodeFrame .raw [a, f, code] = some [a, f, code, c.extractLsb' 8 8, c.extractLsb' 0 8]) ∧
  encodeFrame .base [1#8, 0x83#8, 2#8] = some [1#8, 0x83#8, 2#8, 0xC0#8, 0xF1#8] ∧
  encodeFrame .raw [1#8, 0x83#8, 2#8] = some [1#8, 0x83#8, 2#8, 0xF1#8, 0xC0#8]

/-! Errors (spec/60_exceptions.md) and what each command leaves alone (spec/10_state.md R35). -/

/-- R170, R172 and R173: every word, legal or not, ends in a next state, and in one of two ways: without error it has
cleared ERR and left STICKY, with an error it has changed ERR and STICKY alone. -/
def Obligations.EveryWordEndsAndErrorsArePrecise : Prop :=
  ∀ (w : Word) (s : State), ∃ t, performWord w s = .next t ∧
    ((t.status.err = 0#4 ∧ t.status.sticky = s.status.sticky) ∨
      ∃ e ∈ [1#4, 2#4, 3#4, 4#4, 5#4], t = { s with status := { s.status with err := e, sticky := true } })

/-- Which errors each command can raise (R171). -/
def Obligations.ErrorsOfEachCommand : Prop :=
  ∀ (i : Instr) (s t : State), exec i s = .next t →
    t.status.err ∈
      (match i with
        | .frmPush _ => [0#4, 2#4]
        | .frmRead _ => [0#4, 5#4]
        | .frmEncode => [0#4, 2#4, 3#4, 4#4]
        | .crcInit | .crcFeed _ | .crcRstd | .crcRvnd | .frmClear | .frmValidate | .frmClassify => [0#4])

/-- The columns of R35, a table the spec infers from its other rules: each piece of state changes under the commands
the table gives a mark, and under no other; the parameters and the host's side of the ports under none. -/
def Obligations.OnlyTheListedCommandsWrite : Prop :=
  ∀ (i : Instr) (s t : State), exec i s = .next t →
    (t.crc = s.crc ∨ i = .crcInit ∨ ∃ b, i = .crcFeed b) ∧
    (t.buf = s.buf ∨ i = .frmClear ∨ i = .frmEncode ∨ ∃ b, i = .frmPush b) ∧
    (t.out = s.out ∨ i = .crcRstd ∨ i = .crcRvnd ∨ i = .frmEncode ∨ (i = .frmValidate ∧ 4 ≤ s.buf.length) ∨
      ∃ k, i = .frmRead k) ∧
    (t.status.valid = s.status.valid ∨ i = .frmValidate ∨
      (t.status.valid = false ∧ (i = .frmClear ∨ i = .frmEncode ∨ ∃ b, i = .frmPush b))) ∧
    (t.status.dialect = s.status.dialect ∨ (i = .crcRstd ∧ t.status.dialect = .standard) ∨
      (i = .crcRvnd ∧ t.status.dialect = .vendor) ∨ i = .frmEncode ∨ (i = .frmValidate ∧ 4 ≤ s.buf.length)) ∧
    ((t.status.exc = s.status.exc ∧ t.excr = s.excr) ∨ i = .frmClassify ∨
      (t.status.exc = false ∧ t.excr = Excr.none ∧ (i = .frmClear ∨ i = .frmEncode ∨ ∃ b, i = .frmPush b))) ∧
    (t.status.sticky = s.status.sticky ∨
      (t.status.sticky = true ∧ t.status.err ≠ 0#4 ∧ (i = .frmEncode ∨ (∃ b, i = .frmPush b) ∨ ∃ k, i = .frmRead k))) ∧
    t.params = s.params ∧ t.port = s.port ∧ t.reads = s.reads

/-- R22, byte by byte: FRM_CLEAR leaves no byte, FRM_PUSH and FRM_ENCODE add bytes at the end and change none below it,
and every other command leaves every index reading as before. -/
def Obligations.BufferBytesAreNeverOverwritten : Prop :=
  ∀ (i : Instr) (s t : State), exec i s = .next t → ∀ k : Nat,
    match i with
    | .frmClear => t.buf.read? k = none
    | .frmPush _ => k ≠ s.buf.length → t.buf.read? k = s.buf.read? k
    | .frmEncode => k ≠ s.buf.length → k ≠ s.buf.length + 1 → t.buf.read? k = s.buf.read? k
    | .crcInit | .crcFeed _ | .crcRstd | .crcRvnd | .frmRead _ | .frmValidate | .frmClassify =>
      t.buf.read? k = s.buf.read? k

/-- R21: the frame commands neither read nor write `CRC`: with another value in it they do the same and leave it. -/
def Obligations.FrameCommandsIgnoreCrc : Prop :=
  ∀ (i : Instr) (s t : State) (c : Word),
    i ∈ [Instr.frmClear, .frmEncode, .frmValidate, .frmClassify] ∨ (∃ b, i = .frmPush b) ∨ (∃ k, i = .frmRead k) →
    exec i s = .next t → exec i { s with crc := c } = .next { t with crc := c }

/-- R26, R121, R155: no command reads a result of an earlier one out of OUT, STATUS or EXCR. Whatever they hold, the
command leaves the same CRC, the same buffer and the same error code, and every part of OUT, STATUS and EXCR that it
writes gets the same value: OUT and DIALECT from each command that renders, OUT from FRM_READ, VALID from FRM_VALIDATE,
EXC and EXCR from FRM_CLASSIFY, VALID, EXC and EXCR from each command that changes BUF, STICKY from an error. -/
def Obligations.NoCommandReadsEarlierResults : Prop :=
  ∀ (i : Instr) (s t : State) (o : Word) (st : Status) (e : Excr), exec i s = .next t →
    let renders : Prop := i = .crcRstd ∨ i = .crcRvnd ∨ (i = .frmEncode ∧ t.status.err = 0#4) ∨
      (i = .frmValidate ∧ 4 ≤ s.buf.length)
    let changesBuf : Prop := t.status.err = 0#4 ∧ (i = .frmClear ∨ i = .frmEncode ∨ ∃ b, i = .frmPush b)
    ∃ u, exec i { s with out := o, status := st, excr := e } = .next u ∧
      u.crc = t.crc ∧ u.buf = t.buf ∧ u.status.err = t.status.err ∧
      (renders → u.out = t.out ∧ u.status.dialect = t.status.dialect) ∧
      (t.status.err = 0#4 → (∃ k, i = .frmRead k) → u.out = t.out) ∧
      (i = .frmValidate ∨ changesBuf → u.status.valid = t.status.valid) ∧
      (i = .frmClassify ∨ changesBuf → u.status.exc = t.status.exc ∧ u.excr = t.excr) ∧
      (t.status.err ≠ 0#4 → u.status.sticky = t.status.sticky)

/-! The whole machine. -/

/-- R37, invariants the spec infers from its other rules: every step keeps them, whatever the host does. -/
def Obligations.EveryStepKeepsTheInvariant : Prop :=
  ∀ s t : State, s.Inv → step s = .next t → t.Inv

/-- The invariants (R37, the spec's own inference) hold after reset, for every legal pair of parameters. -/
def Obligations.ResetMeetsTheInvariant : Prop :=
  State.reset.Inv ∧ ∀ p : Params, p.Legal → (State.init p).Inv

/-- R170, R201: from a state that meets the invariants the block performs all the host issues, in as many steps, and
never stops. The port is the model's own (log 1). -/
def Obligations.EveryRunEndsWithoutAStop : Prop :=
  ∀ s : State, s.Inv → ∃ t, runFor s.port.length s = .next t ∧ t.port = [] ∧ t.Inv

/-- R29 and R37 (e), the latter the spec's own inference: over any run without a reset, STICKY is set at the end
exactly when some command on the way ended in an error. The port is the model's own (log 1). -/
def Obligations.StickyRecordsEveryError : Prop :=
  ∀ (k : Nat) (s t : State), s.ErrorFree → s.status.err = 0#4 → HostAct.reset ∉ s.port → runFor k s = .next t →
    (t.status.sticky = true ↔ ∃ (j : Nat) (u : State), j ≤ k ∧ runFor j s = .next u ∧ u.status.err ≠ 0#4)

/-- R20, R191: no command, read or reset changes the parameters. -/
def Obligations.ParametersNeverChange : Prop :=
  ∀ s t : State, step s = .next t → t.params = s.params

/-- R22: where the invariants hold, the LEN register reads the number of bytes in the buffer, at most MAX_FRAME. -/
def Obligations.LenRegisterCountsTheBytes : Prop :=
  ∀ s : State, s.Inv → (s.readReg 2#3).toNat = s.buf.length ∧ s.buf.length ≤ s.params.maxFrame

/-- FRM_LOAD of R76: it leaves exactly its bytes in the buffer, without an error, if they fit. The port (log 1) and the
premise (log 8) are the model's own. -/
def Obligations.FrmLoadLoadsTheFrame : Prop :=
  ∀ (s : State) (bs : List Byte), s.Sound → bs.length ≤ s.params.maxFrame →
    ∃ t, runFor (frmLoad bs).length (s.issue (frmLoad bs)) = .next t ∧ t.buf = bs ∧ t.status.err = 0#4 ∧
      t.status.sticky = s.status.sticky ∧ t.crc = s.crc ∧ t.out = s.out

/-- CRC_OVER of R76: it leaves the checksum of its bytes in CRC. The port (log 1) and the premise (log 8) are the
model's own. -/
def Obligations.CrcOverComputesTheChecksum : Prop :=
  ∀ (s : State) (bs : List Byte), s.Sound →
    ∃ t, runFor (crcOver bs).length (s.issue (crcOver bs)) = .next t ∧ t.crc = checksum bs ∧ t.buf = s.buf

/-- ENCODE of R76 is the source's `encode(address, function, payload)`: it leaves the encoded frame, if the address is in
range and the frame fits. The port (log 1) and the premise (log 8) are the model's own. -/
def Obligations.EncodeRequestBuildsTheFrame : Prop :=
  ∀ (s : State) (a f : Byte) (p : List Byte), s.Sound → 1 ≤ a.toNat → a.toNat ≤ 250 →
    p.length + 4 ≤ s.params.maxFrame →
    ∃ t, runFor (encodeRequest (a :: f :: p)).length (s.issue (encodeRequest (a :: f :: p))) = .next t ∧
      some t.buf = encodeFrame s.params.excDialect (a :: f :: p) ∧ t.status.err = 0#4 ∧
      t.status.sticky = s.status.sticky

/-- CHECK of R76: after it EXC tells whether the frame is exception-shaped and VALID whether it validates. The port
(log 1) and the premise (log 8) are the model's own. -/
def Obligations.CheckReportsBothTests : Prop :=
  ∀ s : State, s.Sound →
    ∃ t, runFor checkFrame.length (s.issue checkFrame) = .next t ∧
      t.status.valid = validateFrame s.params.excDialect s.buf ∧
      (t.status.exc = true ↔ s.buf.length = 5 ∧ ∃ f, s.buf[1]? = some f ∧ f.getLsbD 7 = true) ∧ t.buf = s.buf

/-- R197: reading the buffer out, index by index, gives the host the frame's bytes in wire order, and changes no byte of
it. The port (log 1) and the record of the values read (log 3) are the model's own. -/
def Obligations.ReadOutGivesTheFrame : Prop :=
  ∀ s : State, s.Inv → s.port = readOut s.buf.length →
    ∃ t, runFor (2 * s.buf.length) s = .next t ∧ t.reads = s.reads ++ s.buf.map (fun b => b.setWidth 16) ∧
      t.buf = s.buf ∧ t.port = [] ∧ t.status.sticky = s.status.sticky
end

