-- ==== Sys2Proof/Laws/Codec.lean ====
section
/-! SUPPORT. Small laws of the pure functions (spec/40_crc.md, spec/41_frame_codec.md, spec/42_exception_decoder.md). -/

namespace Sys2Proof.Machine

@[simp] theorem render_vendor (c : Word) : render .vendor c = (highByte c, lowByte c) := rfl
@[simp] theorem render_standard (c : Word) : render .standard c = (lowByte c, highByte c) := rfl

@[simp] theorem crcFrom_nil (c : Word) : crcFrom c [] = c := rfl
@[simp] theorem crcFrom_cons (c : Word) (b : Byte) (bs : List Byte) :
    crcFrom c (b :: bs) = crcFrom (crcStep8 c b) bs := rfl

theorem crcFrom_append (c : Word) (xs ys : List Byte) : crcFrom c (xs ++ ys) = crcFrom (crcFrom c xs) ys := by
  simp only [crcFrom, List.foldl_append]

@[simp] theorem frameDialect_raw (n : Nat) (f : Byte) : frameDialect .raw n f = dialectOf f := rfl

theorem frameDialect_base_of_ne {n : Nat} (h : n ≠ 5) (f : Byte) : frameDialect .base n f = dialectOf f := by
  simp [frameDialect, isExceptionShape, h]

/-- A frame has a function byte to go by exactly when it has at least 4 bytes. -/
theorem frameFunction?_eq_none_iff (fr : List Byte) : frameFunction? fr = none ↔ fr.length < 4 := by
  rcases fr with _ | ⟨a, _ | ⟨f, _ | ⟨c, _ | ⟨d, rest⟩⟩⟩⟩ <;> simp [frameFunction?]

/-- It is then the byte at index 1. -/
theorem frameFunction?_eq_some {fr : List Byte} {f : Byte} (h : frameFunction? fr = some f) :
    4 ≤ fr.length ∧ fr[1]? = some f := by
  unfold frameFunction? at h
  split at h
  · injection h with h
    subst h
    simp
  · cases h

/-- The exception test in the words of R150: the length, bit 7 of byte 1, and byte 2 as the code. -/
theorem excCode?_eq_some_iff (fr : List Byte) (code : Byte) :
    excCode? fr = some code ↔
      fr.length = 5 ∧ (∃ f, fr[1]? = some f ∧ f.getLsbD 7 = true) ∧ fr[2]? = some code := by
  rcases fr with _ | ⟨a, _ | ⟨f, _ | ⟨c, _ | ⟨x, _ | ⟨y, _ | ⟨z, rest⟩⟩⟩⟩⟩⟩ <;> simp [excCode?, isExceptionShape]

end Sys2Proof.Machine
end

