-- ==== Sys2Proof/Laws/State.lean ====
section
/-! SUPPORT. What each update of the state does to each field: one lemma per field per update, so that no later proof
unfolds a record update. Where an update leaves all of STATUS alone, one lemma says so. -/

namespace Sys2Proof.Machine

variable (s : State)

/-! `setCrc`. -/

@[simp] theorem State.setCrc_crc (v : Word) : (s.setCrc v).crc = v := rfl
@[simp] theorem State.setCrc_buf (v : Word) : (s.setCrc v).buf = s.buf := rfl
@[simp] theorem State.setCrc_out (v : Word) : (s.setCrc v).out = s.out := rfl
@[simp] theorem State.setCrc_excr (v : Word) : (s.setCrc v).excr = s.excr := rfl
@[simp] theorem State.setCrc_params (v : Word) : (s.setCrc v).params = s.params := rfl
@[simp] theorem State.setCrc_port (v : Word) : (s.setCrc v).port = s.port := rfl
@[simp] theorem State.setCrc_reads (v : Word) : (s.setCrc v).reads = s.reads := rfl
@[simp] theorem State.setCrc_status (v : Word) : (s.setCrc v).status = s.status := rfl

/-! `setOut`. -/

@[simp] theorem State.setOut_crc (v : Word) : (s.setOut v).crc = s.crc := rfl
@[simp] theorem State.setOut_buf (v : Word) : (s.setOut v).buf = s.buf := rfl
@[simp] theorem State.setOut_out (v : Word) : (s.setOut v).out = v := rfl
@[simp] theorem State.setOut_excr (v : Word) : (s.setOut v).excr = s.excr := rfl
@[simp] theorem State.setOut_params (v : Word) : (s.setOut v).params = s.params := rfl
@[simp] theorem State.setOut_port (v : Word) : (s.setOut v).port = s.port := rfl
@[simp] theorem State.setOut_reads (v : Word) : (s.setOut v).reads = s.reads := rfl
@[simp] theorem State.setOut_status (v : Word) : (s.setOut v).status = s.status := rfl

/-! `setDialect`. -/

@[simp] theorem State.setDialect_crc (d : Dialect) : (s.setDialect d).crc = s.crc := rfl
@[simp] theorem State.setDialect_buf (d : Dialect) : (s.setDialect d).buf = s.buf := rfl
@[simp] theorem State.setDialect_out (d : Dialect) : (s.setDialect d).out = s.out := rfl
@[simp] theorem State.setDialect_excr (d : Dialect) : (s.setDialect d).excr = s.excr := rfl
@[simp] theorem State.setDialect_params (d : Dialect) : (s.setDialect d).params = s.params := rfl
@[simp] theorem State.setDialect_port (d : Dialect) : (s.setDialect d).port = s.port := rfl
@[simp] theorem State.setDialect_reads (d : Dialect) : (s.setDialect d).reads = s.reads := rfl
@[simp] theorem State.setDialect_valid (d : Dialect) : (s.setDialect d).status.valid = s.status.valid := rfl
@[simp] theorem State.setDialect_dialect (d : Dialect) : (s.setDialect d).status.dialect = d := rfl
@[simp] theorem State.setDialect_exc (d : Dialect) : (s.setDialect d).status.exc = s.status.exc := rfl
@[simp] theorem State.setDialect_err (d : Dialect) : (s.setDialect d).status.err = s.status.err := rfl
@[simp] theorem State.setDialect_sticky (d : Dialect) : (s.setDialect d).status.sticky = s.status.sticky := rfl

/-! `setValid`. -/

@[simp] theorem State.setValid_crc (v : Bool) : (s.setValid v).crc = s.crc := rfl
@[simp] theorem State.setValid_buf (v : Bool) : (s.setValid v).buf = s.buf := rfl
@[simp] theorem State.setValid_out (v : Bool) : (s.setValid v).out = s.out := rfl
@[simp] theorem State.setValid_excr (v : Bool) : (s.setValid v).excr = s.excr := rfl
@[simp] theorem State.setValid_params (v : Bool) : (s.setValid v).params = s.params := rfl
@[simp] theorem State.setValid_port (v : Bool) : (s.setValid v).port = s.port := rfl
@[simp] theorem State.setValid_reads (v : Bool) : (s.setValid v).reads = s.reads := rfl
@[simp] theorem State.setValid_valid (v : Bool) : (s.setValid v).status.valid = v := rfl
@[simp] theorem State.setValid_dialect (v : Bool) : (s.setValid v).status.dialect = s.status.dialect := rfl
@[simp] theorem State.setValid_exc (v : Bool) : (s.setValid v).status.exc = s.status.exc := rfl
@[simp] theorem State.setValid_err (v : Bool) : (s.setValid v).status.err = s.status.err := rfl
@[simp] theorem State.setValid_sticky (v : Bool) : (s.setValid v).status.sticky = s.status.sticky := rfl

/-! `setExc`. -/

@[simp] theorem State.setExc_crc (b : Bool) (e : Excr) : (s.setExc b e).crc = s.crc := rfl
@[simp] theorem State.setExc_buf (b : Bool) (e : Excr) : (s.setExc b e).buf = s.buf := rfl
@[simp] theorem State.setExc_out (b : Bool) (e : Excr) : (s.setExc b e).out = s.out := rfl
@[simp] theorem State.setExc_excr (b : Bool) (e : Excr) : (s.setExc b e).excr = e := rfl
@[simp] theorem State.setExc_params (b : Bool) (e : Excr) : (s.setExc b e).params = s.params := rfl
@[simp] theorem State.setExc_port (b : Bool) (e : Excr) : (s.setExc b e).port = s.port := rfl
@[simp] theorem State.setExc_reads (b : Bool) (e : Excr) : (s.setExc b e).reads = s.reads := rfl
@[simp] theorem State.setExc_valid (b : Bool) (e : Excr) : (s.setExc b e).status.valid = s.status.valid := rfl
@[simp] theorem State.setExc_dialect (b : Bool) (e : Excr) : (s.setExc b e).status.dialect = s.status.dialect := rfl
@[simp] theorem State.setExc_exc (b : Bool) (e : Excr) : (s.setExc b e).status.exc = b := rfl
@[simp] theorem State.setExc_err (b : Bool) (e : Excr) : (s.setExc b e).status.err = s.status.err := rfl
@[simp] theorem State.setExc_sticky (b : Bool) (e : Excr) : (s.setExc b e).status.sticky = s.status.sticky := rfl

/-! `setErr`. -/

@[simp] theorem State.setErr_crc (c : BitVec 4) : (s.setErr c).crc = s.crc := rfl
@[simp] theorem State.setErr_buf (c : BitVec 4) : (s.setErr c).buf = s.buf := rfl
@[simp] theorem State.setErr_out (c : BitVec 4) : (s.setErr c).out = s.out := rfl
@[simp] theorem State.setErr_excr (c : BitVec 4) : (s.setErr c).excr = s.excr := rfl
@[simp] theorem State.setErr_params (c : BitVec 4) : (s.setErr c).params = s.params := rfl
@[simp] theorem State.setErr_port (c : BitVec 4) : (s.setErr c).port = s.port := rfl
@[simp] theorem State.setErr_reads (c : BitVec 4) : (s.setErr c).reads = s.reads := rfl
@[simp] theorem State.setErr_valid (c : BitVec 4) : (s.setErr c).status.valid = s.status.valid := rfl
@[simp] theorem State.setErr_dialect (c : BitVec 4) : (s.setErr c).status.dialect = s.status.dialect := rfl
@[simp] theorem State.setErr_exc (c : BitVec 4) : (s.setErr c).status.exc = s.status.exc := rfl
@[simp] theorem State.setErr_err (c : BitVec 4) : (s.setErr c).status.err = c := rfl
@[simp] theorem State.setErr_sticky (c : BitVec 4) : (s.setErr c).status.sticky = s.status.sticky := rfl

/-! `setSticky`. -/

@[simp] theorem State.setSticky_crc : s.setSticky.crc = s.crc := rfl
@[simp] theorem State.setSticky_buf : s.setSticky.buf = s.buf := rfl
@[simp] theorem State.setSticky_out : s.setSticky.out = s.out := rfl
@[simp] theorem State.setSticky_excr : s.setSticky.excr = s.excr := rfl
@[simp] theorem State.setSticky_params : s.setSticky.params = s.params := rfl
@[simp] theorem State.setSticky_port : s.setSticky.port = s.port := rfl
@[simp] theorem State.setSticky_reads : s.setSticky.reads = s.reads := rfl
@[simp] theorem State.setSticky_valid : s.setSticky.status.valid = s.status.valid := rfl
@[simp] theorem State.setSticky_dialect : s.setSticky.status.dialect = s.status.dialect := rfl
@[simp] theorem State.setSticky_exc : s.setSticky.status.exc = s.status.exc := rfl
@[simp] theorem State.setSticky_err : s.setSticky.status.err = s.status.err := rfl
@[simp] theorem State.setSticky_sticky : s.setSticky.status.sticky = true := rfl

/-! `replaceBuf`. -/

@[simp] theorem State.replaceBuf_crc (m : Memory) : (s.replaceBuf m).crc = s.crc := rfl
@[simp] theorem State.replaceBuf_buf (m : Memory) : (s.replaceBuf m).buf = m := rfl
@[simp] theorem State.replaceBuf_out (m : Memory) : (s.replaceBuf m).out = s.out := rfl
@[simp] theorem State.replaceBuf_excr (m : Memory) : (s.replaceBuf m).excr = Excr.none := rfl
@[simp] theorem State.replaceBuf_params (m : Memory) : (s.replaceBuf m).params = s.params := rfl
@[simp] theorem State.replaceBuf_port (m : Memory) : (s.replaceBuf m).port = s.port := rfl
@[simp] theorem State.replaceBuf_reads (m : Memory) : (s.replaceBuf m).reads = s.reads := rfl
@[simp] theorem State.replaceBuf_valid (m : Memory) : (s.replaceBuf m).status.valid = false := rfl
@[simp] theorem State.replaceBuf_dialect (m : Memory) : (s.replaceBuf m).status.dialect = s.status.dialect := rfl
@[simp] theorem State.replaceBuf_exc (m : Memory) : (s.replaceBuf m).status.exc = false := rfl
@[simp] theorem State.replaceBuf_err (m : Memory) : (s.replaceBuf m).status.err = s.status.err := rfl
@[simp] theorem State.replaceBuf_sticky (m : Memory) : (s.replaceBuf m).status.sticky = s.status.sticky := rfl

/-! `report`. -/

@[simp] theorem State.report_crc (d : Dialect) (c : Word) : (s.report d c).crc = s.crc := rfl
@[simp] theorem State.report_buf (d : Dialect) (c : Word) : (s.report d c).buf = s.buf := rfl
@[simp] theorem State.report_out (d : Dialect) (c : Word) : (s.report d c).out = packOut (render d c) := rfl
@[simp] theorem State.report_excr (d : Dialect) (c : Word) : (s.report d c).excr = s.excr := rfl
@[simp] theorem State.report_params (d : Dialect) (c : Word) : (s.report d c).params = s.params := rfl
@[simp] theorem State.report_port (d : Dialect) (c : Word) : (s.report d c).port = s.port := rfl
@[simp] theorem State.report_reads (d : Dialect) (c : Word) : (s.report d c).reads = s.reads := rfl
@[simp] theorem State.report_valid (d : Dialect) (c : Word) : (s.report d c).status.valid = s.status.valid := rfl
@[simp] theorem State.report_dialect (d : Dialect) (c : Word) : (s.report d c).status.dialect = d := rfl
@[simp] theorem State.report_exc (d : Dialect) (c : Word) : (s.report d c).status.exc = s.status.exc := rfl
@[simp] theorem State.report_err (d : Dialect) (c : Word) : (s.report d c).status.err = s.status.err := rfl
@[simp] theorem State.report_sticky (d : Dialect) (c : Word) : (s.report d c).status.sticky = s.status.sticky := rfl

/-! `hostRead`. -/

@[simp] theorem State.hostRead_crc (a : BitVec 3) : (s.hostRead a).crc = s.crc := rfl
@[simp] theorem State.hostRead_buf (a : BitVec 3) : (s.hostRead a).buf = s.buf := rfl
@[simp] theorem State.hostRead_out (a : BitVec 3) : (s.hostRead a).out = s.out := rfl
@[simp] theorem State.hostRead_excr (a : BitVec 3) : (s.hostRead a).excr = s.excr := rfl
@[simp] theorem State.hostRead_params (a : BitVec 3) : (s.hostRead a).params = s.params := rfl
@[simp] theorem State.hostRead_port (a : BitVec 3) : (s.hostRead a).port = s.port := rfl
@[simp] theorem State.hostRead_reads (a : BitVec 3) : (s.hostRead a).reads = s.reads ++ [s.readReg a] := rfl
@[simp] theorem State.hostRead_status (a : BitVec 3) : (s.hostRead a).status = s.status := rfl

/-! `issueNext`. -/

@[simp] theorem State.issueNext_crc (w : Word) : (s.issueNext w).crc = s.crc := rfl
@[simp] theorem State.issueNext_buf (w : Word) : (s.issueNext w).buf = s.buf := rfl
@[simp] theorem State.issueNext_out (w : Word) : (s.issueNext w).out = s.out := rfl
@[simp] theorem State.issueNext_excr (w : Word) : (s.issueNext w).excr = s.excr := rfl
@[simp] theorem State.issueNext_params (w : Word) : (s.issueNext w).params = s.params := rfl
@[simp] theorem State.issueNext_port (w : Word) : (s.issueNext w).port = .command w :: s.port := rfl
@[simp] theorem State.issueNext_reads (w : Word) : (s.issueNext w).reads = s.reads := rfl
@[simp] theorem State.issueNext_status (w : Word) : (s.issueNext w).status = s.status := rfl

/-! Reset (spec/10_state.md R36) and the state it leaves. -/

@[simp] theorem State.assertReset_crc : s.assertReset.crc = 0xFFFF#16 := rfl
@[simp] theorem State.assertReset_buf : s.assertReset.buf = [] := rfl
@[simp] theorem State.assertReset_out : s.assertReset.out = 0x0000#16 := rfl
@[simp] theorem State.assertReset_excr : s.assertReset.excr = Excr.none := rfl
@[simp] theorem State.assertReset_params : s.assertReset.params = s.params := rfl
@[simp] theorem State.assertReset_port : s.assertReset.port = s.port := rfl
@[simp] theorem State.assertReset_reads : s.assertReset.reads = s.reads := rfl
@[simp] theorem State.assertReset_valid : s.assertReset.status.valid = false := rfl
@[simp] theorem State.assertReset_dialect : s.assertReset.status.dialect = .standard := rfl
@[simp] theorem State.assertReset_exc : s.assertReset.status.exc = false := rfl
@[simp] theorem State.assertReset_err : s.assertReset.status.err = 0#4 := rfl
@[simp] theorem State.assertReset_sticky : s.assertReset.status.sticky = false := rfl

@[simp] theorem State.init_crc (p : Params) : (State.init p).crc = 0xFFFF#16 := rfl
@[simp] theorem State.init_buf (p : Params) : (State.init p).buf = [] := rfl
@[simp] theorem State.init_out (p : Params) : (State.init p).out = 0x0000#16 := rfl
@[simp] theorem State.init_excr (p : Params) : (State.init p).excr = Excr.none := rfl
@[simp] theorem State.init_params (p : Params) : (State.init p).params = p := rfl
@[simp] theorem State.init_port (p : Params) : (State.init p).port = [] := rfl
@[simp] theorem State.init_reads (p : Params) : (State.init p).reads = [] := rfl
@[simp] theorem State.init_valid (p : Params) : (State.init p).status.valid = false := rfl
@[simp] theorem State.init_dialect (p : Params) : (State.init p).status.dialect = .standard := rfl
@[simp] theorem State.init_exc (p : Params) : (State.init p).status.exc = false := rfl
@[simp] theorem State.init_err (p : Params) : (State.init p).status.err = 0#4 := rfl
@[simp] theorem State.init_sticky (p : Params) : (State.init p).status.sticky = false := rfl

end Sys2Proof.Machine
end

