-- ==== Sys2Proof/Laws/Ops.lean ====
section
/-! SUPPORT. One law for each shared operation, saying once everything it can do. -/

namespace Sys2Proof.Machine

/-! How a command ends. -/

theorem complete_next (s : State) : complete s = .next (s.setErr 0#4) := rfl

theorem raise_next (e : CmdError) (s : State) : raise e s = .next ((s.setErr e.code).setSticky) := rfl

theorem CmdError.code_ne_zero (e : CmdError) : e.code ≠ 0#4 := by cases e <;> decide

theorem CmdError.code_le_five (e : CmdError) : e.code.toNat ≤ 5 := by cases e <;> decide

/-! The register read port. -/

@[simp] theorem State.readReg_status (s : State) : s.readReg 0#3 = s.status.word := rfl
@[simp] theorem State.readReg_crc (s : State) : s.readReg 1#3 = s.crc := rfl
@[simp] theorem State.readReg_len (s : State) : s.readReg 2#3 = zext16 s.lenReg := rfl
@[simp] theorem State.readReg_out (s : State) : s.readReg 3#3 = s.out := rfl
@[simp] theorem State.readReg_excr (s : State) : s.readReg 4#3 = s.excr.word := rfl

/-- The read port sees the architectural state alone: not the parameters, not the host's own side. -/
theorem State.readReg_congr {s t : State} (a : BitVec 3) (hc : s.crc = t.crc) (hb : s.buf = t.buf) (ho : s.out = t.out)
    (hs : s.status = t.status) (he : s.excr = t.excr) : s.readReg a = t.readReg a := by
  simp only [State.readReg, State.lenReg, State.len, hc, hb, ho, hs, he]

/-! Reserved values. -/

theorem guarded_of_sound {s : State} (h : s.Sound) (act : State → Answer) : guarded s act = act s := by
  rw [guarded, h]

/-- What the host has still to issue plays no part in it. -/
theorem State.sound_port (s : State) (acts : List HostAct) : State.Sound { s with port := acts } ↔ s.Sound := Iff.rfl

/-- The two ways a guarded action ends. -/
theorem guarded_cases (s : State) (act : State → Answer) :
    (s.Sound ∧ guarded s act = act s) ∨ ∃ f, s.reservedValue? = some f ∧ guarded s act = .fault f := by
  cases h : s.reservedValue? with
  | none => exact .inl ⟨h, guarded_of_sound h act⟩
  | some f => exact .inr ⟨f, rfl, by rw [guarded, h]⟩

/-- Soundness looks at ERR and KIND only. -/
theorem State.sound_congr {s t : State} (he : s.status.err = t.status.err) (hx : s.excr = t.excr) :
    s.Sound ↔ t.Sound := by
  simp only [State.Sound, State.reservedValue?, he, hx]

/-! A command word, an interaction, a step. -/

/-- Everything a command word can do. -/
theorem performWord_cases (w : Word) (s : State) :
    (∃ i, decode w = .legal i ∧ performWord w s = exec i s) ∨
      ∃ why, decode w = .illegal why ∧ performWord w s = raise .illegal s := by
  cases h : decode w with
  | legal i => exact .inl ⟨i, rfl, by simp only [performWord, h]⟩
  | illegal why => exact .inr ⟨why, rfl, by simp only [performWord, h]⟩

/-- Everything a step that answers a next state can have done: it idled, or it served the interaction at the front. -/
theorem step_cases {s t : State} (h : step s = .next t) :
    (s.port = [] ∧ t = s) ∨
      ∃ rest, (∃ w, s.port = .command w :: rest ∧ s.Sound ∧ performWord w { s with port := rest } = .next t) ∨
        (∃ a, s.port = .read a :: rest ∧ s.Sound ∧ t = ({ s with port := rest }).hostRead a) ∨
        (s.port = .reset :: rest ∧ t = ({ s with port := rest }).assertReset) := by
  unfold step serve at h
  split at h
  case h_1 hp => exact .inl ⟨hp, by injection h with h; exact h.symm⟩
  case h_2 a rest hp =>
    refine .inr ⟨rest, ?_⟩
    have sound (act : State → Answer) (hg : guarded { s with port := rest } act = .next t) :
        s.Sound ∧ act { s with port := rest } = .next t := by
      rcases guarded_cases { s with port := rest } act with ⟨hs, he⟩ | ⟨f, -, he⟩
      · exact ⟨hs, he ▸ hg⟩
      · rw [he] at hg; cases hg
    cases a with
    | command w => exact .inl ⟨w, hp, sound _ h⟩
    | read r =>
      obtain ⟨hs, ht⟩ := sound (fun u => .next (u.hostRead r)) h
      exact .inr (.inl ⟨r, hp, hs, by injection ht with ht; exact ht.symm⟩)
    | reset => exact .inr (.inr ⟨hp, by injection h with h; exact h.symm⟩)

end Sys2Proof.Machine
end

