-- ==== Sys2Proof/Laws/Words.lean ====
section
/-! SUPPORT. A word and its two bytes: the fields of a command word (spec/30_encoding.md R70) and the two wire bytes of a
rendering (spec/20_memory.md R55) are taken apart and put together again without loss. -/

namespace Sys2Proof

theorem append_toNat (a b : Byte) : (a ++ b).toNat = a.toNat * 256 + b.toNat := by
  rw [BitVec.toNat_append, ← Nat.shiftLeft_add_eq_or_of_lt b.isLt, Nat.shiftLeft_eq]

@[simp] theorem extract_high_append (a b : Byte) : (a ++ b).extractLsb' 8 8 = a := by
  have ha := a.isLt
  have hb := b.isLt
  apply BitVec.eq_of_toNat_eq
  rw [BitVec.extractLsb'_toNat, append_toNat, Nat.shiftRight_eq_div_pow]
  omega

@[simp] theorem extract_low_append (a b : Byte) : (a ++ b).extractLsb' 0 8 = b := by
  have hb := b.isLt
  apply BitVec.eq_of_toNat_eq
  rw [BitVec.extractLsb'_toNat, append_toNat, Nat.shiftRight_eq_div_pow]
  omega

@[simp] theorem extract_append_extract (w : Word) : w.extractLsb' 8 8 ++ w.extractLsb' 0 8 = w := by
  have hw := w.isLt
  apply BitVec.eq_of_toNat_eq
  rw [append_toNat, BitVec.extractLsb'_toNat, BitVec.extractLsb'_toNat, Nat.shiftRight_eq_div_pow,
    Nat.shiftRight_eq_div_pow]
  omega

@[simp] theorem wordOp_encode (i : Instr) : wordOp (encode i) = i.op := extract_high_append _ _

@[simp] theorem wordImm_encode (i : Instr) : wordImm (encode i) = i.imm := extract_low_append _ _

@[simp] theorem wordOp_append_wordImm (w : Word) : wordOp w ++ wordImm w = w := extract_append_extract w

namespace Machine

@[simp] theorem highByte_append_lowByte (c : Word) : highByte c ++ lowByte c = c := extract_append_extract c

/-- `OUT` holds a rendering as the first wire byte above the second (R55). -/
theorem packOut_eq_append (r : Rendering) : packOut r = r.1 ++ r.2 := by
  have h1 := r.1.isLt
  have h2 := r.2.isLt
  apply BitVec.eq_of_toNat_eq
  rw [append_toNat]
  simp only [packOut, zext16, BitVec.toNat_or, BitVec.toNat_shiftLeft, BitVec.toNat_setWidth]
  rw [Nat.mod_eq_of_lt (show r.1.toNat < 2 ^ 16 by omega), Nat.mod_eq_of_lt (show r.2.toNat < 2 ^ 16 by omega),
    Nat.mod_eq_of_lt (show r.1.toNat <<< 8 < 2 ^ 16 by rw [Nat.shiftLeft_eq]; omega),
    ← Nat.shiftLeft_add_eq_or_of_lt h2, Nat.shiftLeft_eq]

end Machine

end Sys2Proof
end

