-- ==== Sys2Proof/Laws/Commands.lean ====
section
/-! SUPPORT. What each command that branches can do, said once: the branch taken, and the state it completes in or the
error it raises (spec/41_frame_codec.md, spec/42_exception_decoder.md). -/

namespace Sys2Proof.Machine

theorem addressLegal_iff (a : Byte) : addressLegal a = true ↔ 1 ≤ a.toNat ∧ a.toNat ≤ 250 := by
  simp [addressLegal]

theorem execFrmPush_cases (b : Byte) (s : State) :
    (s.buf.length = s.params.maxFrame ∧ execFrmPush b s = raise .overflow s) ∨
      (s.buf.length ≠ s.params.maxFrame ∧ execFrmPush b s = complete (s.replaceBuf (s.buf.append [b]))) := by
  by_cases h : s.buf.length = s.params.maxFrame
  · exact .inl ⟨h, by simp [execFrmPush, State.len, h]⟩
  · exact .inr ⟨h, by simp [execFrmPush, State.len, h]⟩

theorem execFrmRead_cases (i : Byte) (s : State) :
    (s.buf.length ≤ i.toNat ∧ execFrmRead i s = raise .index s) ∨
      ∃ b, s.buf[i.toNat]? = some b ∧ execFrmRead i s = complete (s.setOut (zext16 b)) := by
  cases h : s.buf[i.toNat]? with
  | none => exact .inl ⟨by simpa using h, by simp [execFrmRead, Memory.read?, bufIndex, h]⟩
  | some b => exact .inr ⟨b, rfl, by simp [execFrmRead, Memory.read?, bufIndex, h]⟩

/-- The state FRM_ENCODE completes in, for a function byte `f`. -/
def encodedState (s : State) (f : Byte) : State :=
  (s.replaceBuf (s.buf.append (wireBytes (render (frameDialect s.params.excDialect (s.len + 2) f) (checksum s.buf))))).report
    (frameDialect s.params.excDialect (s.len + 2) f) (checksum s.buf)

@[simp] theorem encodedState_crc (s : State) (f : Byte) : (encodedState s f).crc = s.crc := rfl
@[simp] theorem encodedState_buf (s : State) (f : Byte) : (encodedState s f).buf =
    s.buf ++ wireBytes (render (frameDialect s.params.excDialect (s.len + 2) f) (checksum s.buf)) := rfl
@[simp] theorem encodedState_out (s : State) (f : Byte) : (encodedState s f).out =
    packOut (render (frameDialect s.params.excDialect (s.len + 2) f) (checksum s.buf)) := rfl
@[simp] theorem encodedState_excr (s : State) (f : Byte) : (encodedState s f).excr = Excr.none := rfl
@[simp] theorem encodedState_params (s : State) (f : Byte) : (encodedState s f).params = s.params := rfl
@[simp] theorem encodedState_port (s : State) (f : Byte) : (encodedState s f).port = s.port := rfl
@[simp] theorem encodedState_reads (s : State) (f : Byte) : (encodedState s f).reads = s.reads := rfl
@[simp] theorem encodedState_valid (s : State) (f : Byte) : (encodedState s f).status.valid = false := rfl
@[simp] theorem encodedState_dialect (s : State) (f : Byte) : (encodedState s f).status.dialect =
    frameDialect s.params.excDialect (s.len + 2) f := rfl
@[simp] theorem encodedState_exc (s : State) (f : Byte) : (encodedState s f).status.exc = false := rfl
@[simp] theorem encodedState_err (s : State) (f : Byte) : (encodedState s f).status.err = s.status.err := rfl
@[simp] theorem encodedState_sticky (s : State) (f : Byte) : (encodedState s f).status.sticky = s.status.sticky := rfl

theorem execFrmEncode_cases (s : State) :
    (s.buf.length < 2 ∧ execFrmEncode s = raise .short s) ∨
      ∃ a f p, s.buf = a :: f :: p ∧
        ((¬ (1 ≤ a.toNat ∧ a.toNat ≤ 250) ∧ execFrmEncode s = raise .addr s) ∨
          ((1 ≤ a.toNat ∧ a.toNat ≤ 250) ∧ s.params.maxFrame < s.buf.length + 2 ∧
            execFrmEncode s = raise .overflow s) ∨
          ((1 ≤ a.toNat ∧ a.toNat ≤ 250) ∧ s.buf.length + 2 ≤ s.params.maxFrame ∧
            execFrmEncode s = complete (encodedState s f))) := by
  unfold execFrmEncode
  split
  case h_1 a f p hb =>
    refine .inr ⟨a, f, p, hb, ?_⟩
    by_cases ha : addressLegal a = true
    · by_cases ho : s.params.maxFrame < s.buf.length + 2
      · exact .inr (.inl ⟨(addressLegal_iff a).1 ha, ho, by simp [ha, State.len, ho]⟩)
      · exact .inr (.inr ⟨(addressLegal_iff a).1 ha, Nat.le_of_not_lt ho, by simp [ha, State.len, ho, encodedState]⟩)
    · exact .inl ⟨fun h => ha ((addressLegal_iff a).2 h), by simp [ha]⟩
  case h_2 hb =>
    refine .inl ⟨?_, rfl⟩
    rcases h : s.buf with _ | ⟨a, _ | ⟨f, p⟩⟩
    · simp
    · simp
    · exact absurd h (hb a f p)

theorem execFrmValidate_cases (s : State) :
    (s.buf.length < 4 ∧ execFrmValidate s = complete (s.setValid false)) ∨
      ∃ f, 4 ≤ s.buf.length ∧ s.buf[1]? = some f ∧
        execFrmValidate s = complete ((s.setValid (validateFrame s.params.excDialect s.buf)).report
          (frameDialect s.params.excDialect s.buf.length f) (checksum (bodyOf s.buf))) := by
  cases h : frameFunction? s.buf with
  | none => exact .inl ⟨(frameFunction?_eq_none_iff _).1 h, by simp only [execFrmValidate, h]⟩
  | some f =>
    obtain ⟨hl, hf⟩ := frameFunction?_eq_some h
    exact .inr ⟨f, hl, hf, by simp only [execFrmValidate, h, State.len]⟩

theorem execFrmClassify_cases (s : State) :
    (excCode? s.buf = none ∧ execFrmClassify s = complete (s.setExc false Excr.none)) ∨
      ∃ code, excCode? s.buf = some code ∧
        execFrmClassify s = complete (s.setExc true { kind := (excKind code).value, code := code }) := by
  cases h : excCode? s.buf with
  | none => exact .inl ⟨rfl, by simp only [execFrmClassify, h]⟩
  | some code => exact .inr ⟨code, rfl, by simp only [execFrmClassify, h]⟩

/-- Every command either completes or raises one error in the state before it (spec/60_exceptions.md R170, R172). -/
theorem exec_completes_or_raises (i : Instr) (s : State) :
    (∃ t, exec i s = complete t) ∨ ∃ e, exec i s = raise e s := by
  cases i with
  | crcInit => exact .inl ⟨_, rfl⟩
  | crcFeed b => exact .inl ⟨_, rfl⟩
  | crcRstd => exact .inl ⟨_, rfl⟩
  | crcRvnd => exact .inl ⟨_, rfl⟩
  | frmClear => exact .inl ⟨_, rfl⟩
  | frmPush b =>
    rcases execFrmPush_cases b s with ⟨-, h⟩ | ⟨-, h⟩
    · exact .inr ⟨_, h⟩
    · exact .inl ⟨_, h⟩
  | frmRead i =>
    rcases execFrmRead_cases i s with ⟨-, h⟩ | ⟨b, -, h⟩
    · exact .inr ⟨_, h⟩
    · exact .inl ⟨_, h⟩
  | frmEncode =>
    rcases execFrmEncode_cases s with ⟨-, h⟩ | ⟨a, f, p, -, ⟨-, h⟩ | ⟨-, -, h⟩ | ⟨-, -, h⟩⟩
    · exact .inr ⟨_, h⟩
    · exact .inr ⟨_, h⟩
    · exact .inr ⟨_, h⟩
    · exact .inl ⟨_, h⟩
  | frmValidate =>
    rcases execFrmValidate_cases s with ⟨-, h⟩ | ⟨f, -, -, h⟩
    · exact .inl ⟨_, h⟩
    · exact .inl ⟨_, h⟩
  | frmClassify =>
    rcases execFrmClassify_cases s with ⟨-, h⟩ | ⟨code, -, h⟩
    · exact .inl ⟨_, h⟩
    · exact .inl ⟨_, h⟩

end Sys2Proof.Machine
end

