-- ==== Sys2Proof/Laws/Memory.lean ====
section
/-! SUPPORT. The frame buffer: reads after appends, the capacity that every operation keeps, and its view as a list of
(address, byte) pairs with rising addresses (spec/20_memory.md R50, R57). -/

namespace Sys2Proof.Machine

/-- Below the old end an append changes no byte. -/
theorem Memory.read?_append_lt (m : Memory) (bs : List Byte) {i : Nat} (h : i < m.length) :
    (m.append bs).read? i = m.read? i := by
  simp only [Memory.append, Memory.read?]
  exact List.getElem?_append_left h

/-- From the old end on, the appended bytes stand in their order. -/
theorem Memory.read?_append_ge (m : Memory) (bs : List Byte) (k : Nat) :
    (m.append bs).read? (m.length + k) = bs[k]? := by
  simp only [Memory.append, Memory.read?]
  rw [List.getElem?_append_right (by omega)]
  congr 1
  omega

/-- An index at or past the end names no byte (spec/93_implementation_defined.md I17). -/
theorem Memory.read?_eq_none_iff (m : Memory) (i : Nat) : m.read? i = none ↔ m.length ≤ i := by
  simp [Memory.read?]

/-! Every operation keeps the capacity, where it does what its command allows. -/

theorem Memory.wf_clear (p : Params) : Memory.wf p [] = true := by simp [Memory.wf]

theorem Memory.wf_append {p : Params} {m : Memory} {bs : List Byte} (h : m.length + bs.length ≤ p.maxFrame) :
    (m.append bs).wf p = true := by
  simp [Memory.wf, Memory.append, h]

theorem State.reset_buf_wf : State.reset.buf.wf State.reset.params = true := by decide

/-! The view as cells. -/

theorem Memory.cellsFrom_fst_ge (m : Memory) (i : Nat) : ∀ c ∈ m.cellsFrom i, i ≤ c.1 := by
  induction m generalizing i with
  | nil => intro c hc; cases hc
  | cons b bs ih =>
    intro c hc
    rcases List.mem_cons.mp hc with rfl | hc
    · exact Nat.le_refl i
    · exact Nat.le_of_succ_le (ih (i + 1) c hc)

/-- The addresses are strictly rising, for every buffer. -/
theorem Memory.cellsFrom_rising (m : Memory) (i : Nat) : (m.cellsFrom i).Pairwise fun c d => c.1 < d.1 := by
  induction m generalizing i with
  | nil => exact List.Pairwise.nil
  | cons b bs ih => exact List.Pairwise.cons (fun d hd => Memory.cellsFrom_fst_ge bs (i + 1) d hd) (ih (i + 1))

/-- A byte is listed at an address exactly where the buffer holds it there. -/
theorem Memory.mem_cellsFrom (m : Memory) (i k : Nat) (b : Byte) :
    (i + k, b) ∈ m.cellsFrom i ↔ m.read? k = some b := by
  induction m generalizing i k with
  | nil => simp [Memory.cellsFrom, Memory.read?]
  | cons c bs ih =>
    cases k with
    | zero =>
      have later : (i, b) ∉ Memory.cellsFrom (i + 1) bs := fun h => by
        have := Memory.cellsFrom_fst_ge bs (i + 1) _ h
        simp only at this
        omega
      simp [Memory.cellsFrom, Memory.read?, later, eq_comm]
    | succ k =>
      have := ih (i + 1) k
      rw [show i + (k + 1) = i + 1 + k by omega]
      have ne : i + 1 + k ≠ i := by omega
      simp only [Memory.cellsFrom, List.mem_cons, Prod.mk.injEq, this, ne, false_and, false_or]
      simp [Memory.read?]

end Sys2Proof.Machine
end

