-- ==== Sys2Proof/Laws/PerInstr.lean ====
section
/-! SUPPORT. Statements about every command, one lemma per constructor. Family TableRow: the word of a command fits its
row of spec/opcode_table.json. -/

namespace Sys2Proof

/-- The command's word under its row's mask is its row's match. -/
abbrev Laws.TableRow.Statement (i : Instr) : Prop := encode i &&& i.rowMask = i.rowMatch

theorem Laws.TableRow.crcInit : Laws.TableRow.Statement .crcInit := by decide
theorem Laws.TableRow.crcFeed (b : Byte) : Laws.TableRow.Statement (.crcFeed b) := by
  revert b; decide
theorem Laws.TableRow.crcRstd : Laws.TableRow.Statement .crcRstd := by decide
theorem Laws.TableRow.crcRvnd : Laws.TableRow.Statement .crcRvnd := by decide
theorem Laws.TableRow.frmClear : Laws.TableRow.Statement .frmClear := by decide
theorem Laws.TableRow.frmPush (b : Byte) : Laws.TableRow.Statement (.frmPush b) := by
  revert b; decide
theorem Laws.TableRow.frmRead (i : Byte) : Laws.TableRow.Statement (.frmRead i) := by
  revert i; decide
theorem Laws.TableRow.frmEncode : Laws.TableRow.Statement .frmEncode := by decide
theorem Laws.TableRow.frmValidate : Laws.TableRow.Statement .frmValidate := by decide
theorem Laws.TableRow.frmClassify : Laws.TableRow.Statement .frmClassify := by decide

end Sys2Proof
end

