-- ==== Sys2Proof/Laws/Run.lean ====
section
/-! SUPPORT. Runs, one step at a time (spec/70_reset_and_hazards.md R201). -/

namespace Sys2Proof.Machine

@[simp] theorem runFor_zero (s : State) : runFor 0 s = .next s := rfl

/-- A run whose first step answers a next state goes on from there. -/
theorem runFor_succ_of_next {k : Nat} {s t : State} (h : step s = .next t) : runFor (k + 1) s = runFor k t := by
  have h' : core.step s = .next t := h
  simp only [runFor, Host.Core.run, h']
  rfl

/-- A longer run that answers a next state began with a step that did. -/
theorem step_of_runFor_succ {k : Nat} {s u : State} (h : runFor (k + 1) s = .next u) :
    ∃ t, step s = .next t ∧ runFor k t = .next u := by
  cases hs : step s with
  | next t => exact ⟨t, rfl, by rw [← runFor_succ_of_next hs]; exact h⟩
  | fault f =>
    have h' : core.step s = .fault f := hs
    simp only [runFor, Host.Core.run, h'] at h
    cases h
  | refused r =>
    have h' : core.step s = .refused r := hs
    simp only [runFor, Host.Core.run, h'] at h
    cases h

end Sys2Proof.Machine
end

