-- ==== Sys2Proof/Tests/Slice0.lean ====
section
/-! SUPPORT. Own tests: expected values are those of spec/95_test_vectors.md (L1, L2) or of the rules named. Then, for
each statement with hypotheses, a witness that they can be met, at the boundary values of its clauses. -/

open Sys2Proof Sys2Proof.Machine

/-! Well-formedness of source lines (R75, R76): one ill-formed term for each check. -/

theorem test_wf_accepts : ({ mnemonic := .frmPush, operands := [255] } : Source).wf = true := by decide
theorem test_wf_refuses_missing : ({ mnemonic := .frmRead, operands := [] } : Source).wf = false := by decide
theorem test_wf_refuses_short_encode : ({ mnemonic := .encode, operands := [1] } : Source).wf = false := by decide
theorem test_wf_refuses_extra : ({ mnemonic := .frmEncode, operands := [0] } : Source).wf = false := by decide
theorem test_wf_refuses_256 : ({ mnemonic := .crcFeed, operands := [256] } : Source).wf = false := by decide

/-! Decoding: the words of R71 written out bit by bit. -/

theorem test_decode_crcInit : decode 0b0000000100000000#16 = .legal .crcInit := by decide
theorem test_decode_crcFeed : decode 0b0000001010000001#16 = .legal (.crcFeed 0x81#8) := by decide
theorem test_decode_crcRstd : decode 0b0000001100000000#16 = .legal .crcRstd := by decide
theorem test_decode_crcRvnd : decode 0b0000010000000000#16 = .legal .crcRvnd := by decide
theorem test_decode_frmClear : decode 0b0001000000000000#16 = .legal .frmClear := by decide
theorem test_decode_frmPush : decode 0b0001000111111111#16 = .legal (.frmPush 0xFF#8) := by decide
theorem test_decode_frmRead : decode 0b0001001000000111#16 = .legal (.frmRead 7#8) := by decide
theorem test_decode_frmEncode : decode 0b0010000000000000#16 = .legal .frmEncode := by decide
theorem test_decode_frmValidate : decode 0b0010000100000000#16 = .legal .frmValidate := by decide
theorem test_decode_frmClassify : decode 0b0011000000000000#16 = .legal .frmClassify := by decide

/-- The ten illegal words of L2-F. -/
theorem test_decode_illegal :
    [0x0000#16, 0xFFFF#16, 0x0101#16, 0x0301#16, 0x0500#16, 0x1300#16, 0x2001#16, 0x2200#16, 0x3080#16, 0x3100#16].all
      (fun w => (decode w).instr? == none) = true := by decide

theorem test_decode_table_word : decodeTableWord 16 0x11FF = some (.frmPush 0xFF#8) := by decide

/-! The assembler (R75, R76). -/

theorem test_asm_hex : assembleLine "CRC_FEED 0x03".toList = .ok [.crcFeed 3#8] := by decide
theorem test_asm_comment : assembleLine "FRM_READ 7 ; a byte".toList = .ok [.frmRead 7#8] := by decide
theorem test_asm_encode :
    assembleLine "ENCODE 1, 0x30".toList = .ok [.frmClear, .frmPush 1#8, .frmPush 0x30#8, .frmEncode] := by decide
theorem test_asm_refuses_operand :
    assembleLine "FRM_ENCODE 1".toList = .error (.illFormed { mnemonic := .frmEncode, operands := [1] }) := by decide

/-! Pure functions (L2-A, L2-C). -/

theorem test_crcBit : [0x0001#16, 0x0002#16, 0x0003#16, 0x8000#16, 0xA001#16].map crcBit =
    [0xA001#16, 0x0001#16, 0xA000#16, 0x4000#16, 0xF001#16] := by decide
theorem test_crcStep8 : crcStep8 0x1234#16 0x56#8 = 0xE993#16 := by decide
theorem test_checksum : checksum [1#8, 0x11#8, 1#8] = 0x90ED#16 := by decide +kernel
theorem test_checksum_corrected : checksum [1#8, 0x11#8] = 0x2CC0#16 := by decide +kernel
theorem test_frameDialect : [0x83#8, 0x80#8, 0x90#8, 0x91#8, 0xB0#8, 0x03#8, 0x11#8].map (frameDialect .base 5) =
    [.standard, .standard, .standard, .vendor, .vendor, .standard, .vendor] := by decide
theorem test_frameDialect_other_length : [frameDialect .base 4 0x83#8, frameDialect .base 6 0x83#8] =
    [.vendor, .vendor] := by decide
theorem test_validate_base : validateFrame .base [1#8, 0x90#8, 1#8, 0x8D#8, 0xC0#8] = true := by decide +kernel
theorem test_validate_raw : validateFrame .raw [1#8, 0x90#8, 1#8, 0x8D#8, 0xC0#8] = false := by decide +kernel

/-! One command each, on a small state: (CRC, BUF, OUT, STATUS, EXCR) after it. -/

/-- A state after reset but for its buffer and its CRC. -/
def testState (x : ExcDialect) (m : Nat) (bs : List Byte) (c : Word) : State :=
  { State.init { maxFrame := m, excDialect := x } with buf := bs, crc := c }

/-- The state an answer goes on in. -/
def nextOf (a : Answer) : Option State :=
  match a with
  | .next t => some t
  | .fault _ => none
  | .refused _ => none

/-- What a host observes after one command. -/
def seen (i : Instr) (s : State) : Option (Word × List Byte × Word × Word × Word) :=
  (nextOf (exec i s)).map fun t => (t.crc, t.buf, t.out, t.status.word, t.excr.word)

theorem test_crcInit : seen .crcInit (testState .base 255 [] 0x30E1#16) =
    some (0xFFFF#16, [], 0#16, 0#16, 0#16) := by decide
theorem test_crcFeed : seen (.crcFeed 1#8) (testState .base 255 [] 0xFFFF#16) =
    some (0x807E#16, [], 0#16, 0#16, 0#16) := by decide +kernel
theorem test_crcRstd : seen .crcRstd (testState .base 255 [] 0x30E1#16) =
    some (0x30E1#16, [], 0xE130#16, 0#16, 0#16) := by decide
theorem test_crcRvnd : seen .crcRvnd (testState .base 255 [] 0x30E1#16) =
    some (0x30E1#16, [], 0x30E1#16, 2#16, 0#16) := by decide
theorem test_frmClear : seen .frmClear (testState .base 255 [1#8, 3#8] 0xFFFF#16) =
    some (0xFFFF#16, [], 0#16, 0#16, 0#16) := by decide
theorem test_frmPush : seen (.frmPush 3#8) (testState .base 255 [1#8] 0xFFFF#16) =
    some (0xFFFF#16, [1#8, 3#8], 0#16, 0#16, 0#16) := by decide
theorem test_frmPush_full : seen (.frmPush 9#8) (testState .base 8 [1#8, 2#8, 3#8, 4#8, 5#8, 6#8, 7#8, 8#8] 0#16) =
    some (0#16, [1#8, 2#8, 3#8, 4#8, 5#8, 6#8, 7#8, 8#8], 0#16, 0x0120#16, 0#16) := by decide
theorem test_frmRead : seen (.frmRead 2#8) (testState .base 255 [1#8, 0x30#8, 0x34#8, 0#8] 0#16) =
    some (0#16, [1#8, 0x30#8, 0x34#8, 0#8], 0x0034#16, 0#16, 0#16) := by decide
theorem test_frmRead_past_end : seen (.frmRead 4#8) (testState .base 255 [1#8, 0x30#8, 0x34#8, 0#8] 0#16) =
    some (0#16, [1#8, 0x30#8, 0x34#8, 0#8], 0#16, 0x0150#16, 0#16) := by decide
theorem test_frmEncode_raw : seen .frmEncode (testState .raw 255 [1#8, 0x83#8, 2#8] 0#16) =
    some (0#16, [1#8, 0x83#8, 2#8, 0xF1#8, 0xC0#8], 0xF1C0#16, 2#16, 0#16) := by decide +kernel
/-- E_ADDR comes before E_OVERFLOW (L2-D, R174). -/
theorem test_frmEncode_priority :
    seen .frmEncode (testState .base 8 [0#8, 3#8, 1#8, 2#8, 3#8, 4#8, 5#8, 6#8] 0#16) =
      some (0#16, [0#8, 3#8, 1#8, 2#8, 3#8, 4#8, 5#8, 6#8], 0#16, 0x0140#16, 0#16) := by decide
theorem test_frmValidate : seen .frmValidate (testState .base 255 [1#8, 0x11#8, 1#8, 0x90#8, 0xED#8] 0#16) =
    some (0#16, [1#8, 0x11#8, 1#8, 0x90#8, 0xED#8], 0x90ED#16, 3#16, 0#16) := by decide +kernel
/-- The dialect changed by a flipped bit of the function byte (L1-7). -/
theorem test_frmValidate_flipped : seen .frmValidate (testState .base 255 [1#8, 0x13#8, 1#8, 0xE1#8, 0x30#8] 0#16) =
    some (0#16, [1#8, 0x13#8, 1#8, 0xE1#8, 0x30#8], 0xF0EC#16, 2#16, 0#16) := by decide +kernel
theorem test_frmClassify : seen .frmClassify (testState .base 255 [1#8, 0x86#8, 0x20#8, 0#8, 0#8] 0#16) =
    some (0#16, [1#8, 0x86#8, 0x20#8, 0#8, 0#8], 0#16, 4#16, 0x2005#16) := by decide
theorem test_frmClassify_other_length : seen .frmClassify (testState .base 255 [1#8, 0x83#8, 2#8, 0#8] 0#16) =
    some (0#16, [1#8, 0x83#8, 2#8, 0#8], 0#16, 0#16, 0#16) := by decide

/-- An illegal word is a next state with E_ILLEGAL (L2-B). -/
theorem test_step_illegal : (nextOf (step (State.reset.withFetchWord 16 0x0301))).map (·.status.word) =
    some 0x0110#16 := by decide
/-- The first command after reset runs (L2-B). -/
theorem test_step_first : (nextOf (step (State.reset.withFetchWord 16 0x0201))).map (·.crc) =
    some 0x807E#16 := by decide +kernel
/-- A second interaction waits its turn. -/
theorem test_step_read : (nextOf (step { State.reset with port := [.read 1#3, .reset] })).map
    (fun t => (t.reads, t.port)) = some ([0xFFFF#16], [.reset]) := by decide

/-! Witnesses: states and operands that meet the hypotheses of the statements. -/

/-- A validated frame, [1,3,1] with its checksum (L1-4). -/
def validState : State :=
  { testState .base 255 [1#8, 3#8, 1#8, 0xE1#8, 0x30#8] 0xFFFF#16 with
    status := { valid := true, dialect := .standard, exc := false, err := 0#4, sticky := false } }

/-- A classified and validated exception frame (L3-P3). -/
def excState : State :=
  { testState .base 255 [1#8, 0x83#8, 2#8, 0xC0#8, 0xF1#8] 0xFFFF#16 with
    status := { valid := true, dialect := .standard, exc := true, err := 5#4, sticky := true }
    excr := { kind := 2#3, code := 2#8 } }

theorem witness_Inv_valid : validState.Inv :=
  ⟨by decide, by decide, fun _ => by decide +kernel, fun h => absurd h (by decide), fun _ => by decide, by decide,
    fun h => absurd h (by decide)⟩

theorem witness_Inv_exc : excState.Inv :=
  ⟨by decide, by decide, fun _ => by decide +kernel, fun _ => ⟨2#8, by decide, by decide⟩, fun h => absurd h (by decide),
    by decide, fun _ => by decide⟩

theorem witness_IllegalWordsRaiseAndChangeNothingElse :
    wordOp 0x0500#16 ∉
        [0x01#8, 0x02#8, 0x03#8, 0x04#8, 0x10#8, 0x11#8, 0x12#8, 0x20#8, 0x21#8, 0x30#8] ∧
      (wordOp 0x30FF#16 ∈ [0x01#8, 0x03#8, 0x04#8, 0x10#8, 0x20#8, 0x21#8, 0x30#8] ∧ wordImm 0x30FF#16 ≠ 0x00#8) ∧
      (wordOp 0x02FF#16 ∈ [0x02#8, 0x11#8, 0x12#8]) := by decide

theorem witness_AssemblerReadsBackEveryCommand :
    (∃ n ∈ [3, 256], 255 < n) ∧ ([0] : List Nat) ≠ [] ∧ ([] : List Nat).length ≠ 1 ∧ ([1, 2] : List Nat).length ≠ 1 := by
  decide

theorem witness_StepPerformsTheIssuedCommand :
    excState.Sound ∧ (excState.issueNext 0x12FF#16).port = .command 0x12FF#16 :: [] ∧
      decode 0x12FF#16 = .legal (.frmRead 255#8) ∧ decodeTableWord 16 0x12FF = some (.frmRead 255#8) := by decide

theorem witness_RegisterReadMapHasNoSideEffect :
    State.Sound { validState with port := [.read 7#3] } ∧
      ({ validState with port := [.read 7#3] } : State).port = .read 7#3 :: [] := by decide

theorem witness_ResetSetsEveryRegister :
    ({ excState with port := [.reset, .read 0#3] } : State).port = .reset :: [.read 0#3] := by decide

theorem witness_IdleStepChangesNothing : validState.port = [] := by decide

/-- A state that holds a reserved error code and one that holds the unused kind: no run reaches either. -/
theorem witness_ReservedValuesAreFaults :
    (∃ s : State, s.port = .read 0#3 :: [] ∧ HostAct.read 0#3 ≠ .reset ∧ 5 < s.status.err.toNat) ∧
      ∃ s : State, s.port = .command 0x0100#16 :: [] ∧ HostAct.command 0x0100#16 ≠ .reset ∧ s.status.err.toNat ≤ 5 ∧
        s.excr.kind = 7#3 :=
  ⟨⟨{ validState with port := [.read 0#3], status := { validState.status with err := 6#4 } }, by decide⟩,
    ⟨{ excState with port := [.command 0x0100#16], excr := { kind := 7#3, code := 0#8 } }, by decide⟩⟩

theorem witness_ReadAfterCommandSeesItsWrites :
    ∃ (s t : State) (i : Instr), s.Sound ∧ s.port = .command (encode i) :: .read 1#3 :: [] ∧
      exec i { s with port := [] } = .next t :=
  ⟨{ validState with port := [.command (encode .crcInit), .read 1#3] }, _, .crcInit, by decide, by decide, rfl⟩

theorem witness_ChecksumIsLinear :
    ([1#8, 2#8] : List Byte).length = ([0#8, 0x80#8] : List Byte).length ∧ 4 < 5 ∧ 7 < 8 := by decide

theorem witness_StreamingEqualsBatch :
    excState.Sound ∧ ∀ i ∈ [Instr.crcFeed 1#8, .frmPush 2#8, .crcFeed 3#8], i ≠ .crcInit := by decide

theorem witness_DialectThreshold : 0x80 ≤ (0x80#8 : Byte).toNat := by decide

theorem witness_FrmPushResult :
    validState.buf.length ≠ validState.params.maxFrame ∧
      (testState .raw 8 [1#8, 2#8, 3#8, 4#8, 5#8, 6#8, 7#8, 8#8] 0#16).buf.length =
        (testState .raw 8 [1#8, 2#8, 3#8, 4#8, 5#8, 6#8, 7#8, 8#8] 0#16).params.maxFrame := by decide

theorem witness_FrmReadResult :
    (4#8 : Byte).toNat < validState.buf.length ∧ validState.buf.length ≤ (5#8 : Byte).toNat ∧
      validState.buf.length ≤ 255 := by decide

theorem witness_FrmEncodeResult_short : (testState .base 8 [0#8] 0#16).buf.length < 2 := by decide

theorem witness_FrmEncodeResult_addr :
    (testState .base 8 [0#8, 3#8] 0#16).buf = 0#8 :: 3#8 :: [] ∧ (0#8 : Byte).toNat < 1 ∧
      (testState .base 8 [251#8, 3#8] 0#16).buf = 251#8 :: 3#8 :: [] ∧ 250 < (251#8 : Byte).toNat := by decide

theorem witness_FrmEncodeResult_overflow :
    let s := testState .base 8 [250#8, 3#8, 1#8, 2#8, 3#8, 4#8, 5#8] 0#16
    s.buf = 250#8 :: 3#8 :: [1#8, 2#8, 3#8, 4#8, 5#8] ∧ 1 ≤ (250#8 : Byte).toNat ∧ (250#8 : Byte).toNat ≤ 250 ∧
      s.params.maxFrame < s.buf.length + 2 := by decide

theorem witness_FrmEncodeResult_frame :
    let s := testState .base 8 [1#8, 3#8, 0#8, 2#8, 0#8, 2#8] 0#16
    s.buf = 1#8 :: 3#8 :: [0#8, 2#8, 0#8, 2#8] ∧ 1 ≤ (1#8 : Byte).toNat ∧ (1#8 : Byte).toNat ≤ 250 ∧
      s.buf.length + 2 ≤ s.params.maxFrame ∧
      (0x65#8, 0xCB#8) = render (frameDialect s.params.excDialect (s.buf.length + 2) 3#8) (checksum s.buf) := by
  decide +kernel

theorem witness_FrmValidateResult :
    (testState .base 8 [1#8, 3#8, 1#8] 0#16).buf.length < 4 ∧
      (let s := testState .base 8 [1#8, 0x11#8, 0x2C#8, 0xC0#8] 0#16
       4 ≤ s.buf.length ∧ s.buf[1]? = some 0x11#8 ∧
         (0x2C#8, 0xC0#8) = render (frameDialect s.params.excDialect s.buf.length 0x11#8)
           (checksum (s.buf.take (s.buf.length - 2)))) := by decide +kernel

/-- FRM_ENCODE that raises no error: also for EncodedFramesValidate. -/
theorem witness_CommandsComputeTheFrameFunctions :
    (∃ s t : State, exec .frmEncode s = .next t ∧ t.status.err = 0#4) ∧
      ∃ s t : State, exec .frmValidate s = .next t :=
  ⟨⟨testState .base 8 [1#8, 3#8] 0#16, _, rfl, by decide⟩, ⟨validState, _, rfl⟩⟩

theorem witness_EncodedFramesValidate : 2 ≤ ([1#8, 3#8] : List Byte).length := by decide

theorem witness_SingleBitErrorsAreDetected :
    validateFrame .base [1#8, 0x11#8, 0x2C#8, 0xC0#8] = true ∧ ([1#8, 0x11#8, 0x2C#8, 0xC0#8] : List Byte).length ≤ 255 ∧
      3 < ([1#8, 0x11#8, 0x2C#8, 0xC0#8] : List Byte).length ∧ 7 < 8 := by decide +kernel

theorem witness_ValidationAsNumbers :
    let fr : List Byte := [1#8, 0x11#8, 0x2C#8, 0xC0#8]
    4 ≤ fr.length ∧ fr[1]? = some 0x11#8 ∧ fr[fr.length - 2]? = some 0x2C#8 ∧ fr[fr.length - 1]? = some 0xC0#8 := by
  decide

theorem witness_FrmClassifyResult :
    (testState .raw 8 [1#8, 0x80#8, 0#8, 0#8, 0#8] 0#16).buf = [1#8, 0x80#8, 0#8, 0#8, 0#8] ∧ 128 ≤ (0x80#8 : Byte).toNat ∧
      (let s := testState .raw 8 [1#8, 0x7F#8, 0#8, 0#8, 0#8] 0#16
       s.buf.length = 5 ∧ s.buf[1]? = some 0x7F#8 ∧ (0x7F#8 : Byte).toNat < 128) ∧
      (testState .raw 8 [1#8, 0x83#8, 0#8, 0#8] 0#16).buf.length ≠ 5 := by decide

theorem witness_OtherLengthsNeverClassify : (testState .raw 8 [1#8, 0x83#8, 2#8, 0#8, 0#8, 0#8] 0#16).buf.length ≠ 5 := by
  decide

theorem witness_ExceptionFrameChecksumOrder :
    128 ≤ (0x90#8 : Byte).toNat ∧ (0x90#8 : Byte).toNat ≤ 128 + 16 ∧ 0xC08D#16 = checksum [1#8, 0x90#8, 1#8] := by
  decide +kernel

/-- A command that goes on, one of each shape: for ErrorsOfEachCommand, OnlyTheListedCommandsWrite,
BufferBytesAreNeverOverwritten, and for NoCommandReadsEarlierResults, whose clauses have their witnesses below. -/
theorem witness_exec_next :
    ∃ t u v w, exec .frmClear validState = .next t ∧ exec (.frmPush 7#8) validState = .next u ∧
      exec .frmEncode (testState .base 8 [1#8, 3#8] 0#16) = .next v ∧ exec (.frmRead 9#8) validState = .next w ∧
      (7 : Nat) ≠ validState.buf.length ∧ (7 : Nat) ≠ validState.buf.length + 1 :=
  ⟨_, _, _, _, rfl, rfl, rfl, rfl, by decide, by decide⟩

/-- The commands that render: `4 ≤ LEN` at its boundary, and FRM_ENCODE without an error. -/
theorem witness_NoCommandReadsEarlierResults_renders :
    ∃ t u v w, exec .crcRstd validState = .next t ∧ exec .crcRvnd validState = .next u ∧
      exec .frmEncode (testState .raw 8 [250#8, 0x90#8, 1#8] 0#16) = .next v ∧ v.status.err = 0#4 ∧
      exec .frmValidate (testState .base 8 [1#8, 3#8, 0#8, 0#8] 0#16) = .next w ∧
      4 ≤ (testState .base 8 [1#8, 3#8, 0#8, 0#8] 0#16).buf.length :=
  ⟨_, _, _, _, rfl, rfl, rfl, rfl, rfl, by decide⟩

/-- FRM_READ of the last byte and FRM_PUSH of the last free byte, without an error. -/
theorem witness_NoCommandReadsEarlierResults_readsAndPushes :
    ∃ t u, exec (.frmRead 2#8) (testState .base 8 [1#8, 3#8, 9#8] 0#16) = .next t ∧ t.status.err = 0#4 ∧
      exec (.frmPush 9#8) (testState .base 8 [1#8, 2#8, 3#8, 4#8, 5#8, 6#8, 7#8] 0#16) = .next u ∧
      u.status.err = 0#4 :=
  ⟨_, _, rfl, rfl, rfl, rfl⟩

/-- FRM_CLASSIFY of an exception frame, and an error: FRM_READ of the first index past the end. -/
theorem witness_NoCommandReadsEarlierResults_classifiesAndErrs :
    ∃ t u, exec .frmClassify excState = .next t ∧
      exec (.frmRead 3#8) (testState .base 8 [1#8, 3#8, 9#8] 0#16) = .next u ∧ u.status.err ≠ 0#4 :=
  ⟨_, _, rfl, rfl, by decide⟩

theorem witness_FrameCommandsIgnoreCrc :
    (Instr.frmClassify ∈ [Instr.frmClear, .frmEncode, .frmValidate, .frmClassify]) ∧
      ∃ t, exec .frmClassify excState = .next t := ⟨by decide, _, rfl⟩

theorem witness_EveryStepKeepsTheInvariant : ∃ t, validState.Inv ∧ step (validState) = .next t :=
  ⟨_, witness_Inv_valid, rfl⟩

theorem witness_ResetMeetsTheInvariant :
    ({ maxFrame := 8, excDialect := .raw } : Params).Legal ∧ ({ maxFrame := 255, excDialect := .base } : Params).Legal := by
  decide

/-- A run with an error in it. -/
theorem witness_StickyRecordsEveryError :
    ∃ s t : State, s.ErrorFree ∧ s.status.err = 0#4 ∧ HostAct.reset ∉ s.port ∧ runFor 1 s = .next t ∧
      t.status.sticky = true :=
  ⟨{ validState with port := [.command 0x0000#16] }, _, by decide, by decide, by decide, rfl, by decide⟩

theorem witness_ParametersNeverChange : ∃ t, step (validState.issueNext 0x1000#16) = .next t := ⟨_, rfl⟩

theorem witness_FrmLoadLoadsTheFrame :
    excState.Sound ∧ ([1#8, 2#8, 3#8, 4#8, 5#8, 6#8, 7#8, 8#8] : List Byte).length ≤ (testState .raw 8 [] 0#16).params.maxFrame ∧
      (testState .raw 8 [] 0#16).Sound := by decide

theorem witness_CrcOverComputesTheChecksum : excState.Sound := by decide

theorem witness_EncodeRequestBuildsTheFrame :
    let s := testState .raw 8 [9#8] 0#16
    s.Sound ∧ 1 ≤ (250#8 : Byte).toNat ∧ (250#8 : Byte).toNat ≤ 250 ∧
      ([1#8, 2#8, 3#8, 4#8] : List Byte).length + 4 ≤ s.params.maxFrame := by decide

theorem witness_CheckReportsBothTests : validState.Sound := by decide

theorem witness_ReadOutGivesTheFrame :
    State.Inv { validState with port := readOut validState.buf.length } ∧
      ({ validState with port := readOut validState.buf.length } : State).port = readOut validState.buf.length :=
  ⟨⟨by decide, by decide, fun _ => by decide +kernel, fun h => absurd h (by decide), fun _ => by decide, by decide,
    fun h => absurd h (by decide)⟩, rfl⟩
end

section
/-! The host's interface: what a step does with the word at the front of the port (spec/00_scope.md R10,
spec/20_memory.md R60, R63). -/

namespace Sys2Proof

@[simp] theorem Decoded.instr?_eq_some_iff {d : Decoded} {i : Instr} : d.instr? = some i ↔ d = .legal i := by
  cases d <;> simp [Decoded.instr?]

/-- A 16-bit table word stands for a command exactly when the port's decoder says so. -/
theorem decodeTableWord_eq_some_iff {w : Nat} {i : Instr} :
    decodeTableWord 16 w = some i ↔ decode (tableWord 16 w) = .legal i := by
  simp [decodeTableWord]

namespace Machine

theorem performWord_of_legal {w : Word} {i : Instr} (hw : decode w = .legal i) (s : State) :
    performWord w s = exec i s := by
  simp only [performWord, hw]

/-- A step takes the interaction at the front off the port and performs it. -/
theorem step_of_port_cons {s : State} {a : HostAct} {rest : List HostAct} (hp : s.port = a :: rest) :
    step s = performAct a { s with port := rest } := by
  simp only [step, serve, hp]

theorem step_command {s : State} {w : Word} {rest : List HostAct} (hs : s.Sound)
    (hp : s.port = .command w :: rest) : step s = performWord w { s with port := rest } := by
  rw [step_of_port_cons hp]
  exact guarded_of_sound ((s.sound_port rest).mpr hs) (performWord w)

theorem step_legal_command {s : State} {w : Word} {i : Instr} {rest : List HostAct} (hs : s.Sound)
    (hp : s.port = .command w :: rest) (hw : decode w = .legal i) : step s = exec i { s with port := rest } := by
  rw [step_command hs hp, performWord_of_legal hw]

/-- Issuing a command and stepping is performing it: the step leaves the port as it was before the issue. -/
theorem step_issueNext {s : State} {w : Word} {i : Instr} (hs : s.Sound) (hw : decode w = .legal i) :
    step (s.issueNext w) = exec i s :=
  step_legal_command (s := s.issueNext w) ((s.sound_port _).mpr hs) (State.issueNext_port s w) hw

theorem step_withFetchWord {s : State} {w : Nat} {i : Instr} (hs : s.Sound) (hw : decodeTableWord 16 w = some i) :
    step (s.withFetchWord 16 w) = exec i s :=
  step_issueNext hs (decodeTableWord_eq_some_iff.mp hw)

/-- Settles O6: a step performs the word at the front of the port, however it came there. -/
theorem stepPerformsTheIssuedCommand : Obligations.StepPerformsTheIssuedCommand :=
  ⟨fun _ _ _ hs hp => step_command hs hp, fun _ _ _ _ hs hp hw => step_legal_command hs hp hw,
    fun _ _ _ hs hw => step_issueNext hs hw, fun _ _ _ hs hw => step_withFetchWord hs hw⟩

end Machine
end Sys2Proof
end

section
/-! What a command can do, said once: the writes it completes with, or the error it raises, each under its premise on
the state before (spec/40_crc.md, spec/41_frame_codec.md, spec/42_exception_decoder.md). -/

namespace Sys2Proof.Machine

/-- `Completes s i u`: command `i` completes in state `s`, and its writes give `u`. What every completion does after
them, `STATUS.ERR <- 0` (spec/60_exceptions.md R173), is not in `u`. -/
inductive Completes (s : State) : Instr → State → Prop
  | crcInit : Completes s .crcInit (s.setCrc crcInitial)
  | crcFeed (b : Byte) : Completes s (.crcFeed b) (s.setCrc (crcStep8 s.crc b))
  | crcRstd : Completes s .crcRstd (s.report .standard s.crc)
  | crcRvnd : Completes s .crcRvnd (s.report .vendor s.crc)
  | frmClear : Completes s .frmClear (s.replaceBuf [])
  | frmPush (b : Byte) (room : s.buf.length ≠ s.params.maxFrame) :
      Completes s (.frmPush b) (s.replaceBuf (s.buf.append [b]))
  | frmRead {k b : Byte} (held : s.buf[k.toNat]? = some b) : Completes s (.frmRead k) (s.setOut (zext16 b))
  | frmEncode {a f : Byte} {p : List Byte} (hb : s.buf = a :: f :: p) (legal : 1 ≤ a.toNat ∧ a.toNat ≤ 250)
      (room : s.buf.length + 2 ≤ s.params.maxFrame) : Completes s .frmEncode (encodedState s f)
  | validateShort (short : s.buf.length < 4) : Completes s .frmValidate (s.setValid false)
  | validateLong {f : Byte} (long : 4 ≤ s.buf.length) (hf : s.buf[1]? = some f) :
      Completes s .frmValidate ((s.setValid (validateFrame s.params.excDialect s.buf)).report
        (frameDialect s.params.excDialect s.buf.length f) (checksum (bodyOf s.buf)))
  | classifyOther (other : excCode? s.buf = none) : Completes s .frmClassify (s.setExc false Excr.none)
  | classifyException {code : Byte} (shape : excCode? s.buf = some code) :
      Completes s .frmClassify (s.setExc true { kind := (excKind code).value, code := code })

/-- `Raises s i e`: command `i` raises `e` in state `s` (spec/60_exceptions.md R171, R174). -/
inductive Raises (s : State) : Instr → CmdError → Prop
  | pushFull (b : Byte) (full : s.buf.length = s.params.maxFrame) : Raises s (.frmPush b) .overflow
  | readPastEnd {k : Byte} (past : s.buf.length ≤ k.toNat) : Raises s (.frmRead k) .index
  | encodeShort (short : s.buf.length < 2) : Raises s .frmEncode .short
  | encodeAddr {a f : Byte} {p : List Byte} (hb : s.buf = a :: f :: p)
      (illegal : ¬ (1 ≤ a.toNat ∧ a.toNat ≤ 250)) : Raises s .frmEncode .addr
  | encodeFull {a f : Byte} {p : List Byte} (hb : s.buf = a :: f :: p) (legal : 1 ≤ a.toNat ∧ a.toNat ≤ 250)
      (full : s.params.maxFrame < s.buf.length + 2) : Raises s .frmEncode .overflow

/-- Everything a command can do. -/
theorem exec_cases (i : Instr) (s : State) :
    (∃ u, Completes s i u ∧ exec i s = complete u) ∨ ∃ e, Raises s i e ∧ exec i s = raise e s := by
  cases i with
  | crcInit => exact .inl ⟨_, .crcInit, rfl⟩
  | crcFeed b => exact .inl ⟨_, .crcFeed b, rfl⟩
  | crcRstd => exact .inl ⟨_, .crcRstd, rfl⟩
  | crcRvnd => exact .inl ⟨_, .crcRvnd, rfl⟩
  | frmClear => exact .inl ⟨_, .frmClear, rfl⟩
  | frmPush b =>
    rcases execFrmPush_cases b s with ⟨full, h⟩ | ⟨room, h⟩
    · exact .inr ⟨_, .pushFull b full, h⟩
    · exact .inl ⟨_, .frmPush b room, h⟩
  | frmRead k =>
    rcases execFrmRead_cases k s with ⟨past, h⟩ | ⟨b, held, h⟩
    · exact .inr ⟨_, .readPastEnd past, h⟩
    · exact .inl ⟨_, .frmRead held, h⟩
  | frmEncode =>
    rcases execFrmEncode_cases s with
      ⟨short, h⟩ | ⟨a, f, p, hb, ⟨illegal, h⟩ | ⟨legal, full, h⟩ | ⟨legal, room, h⟩⟩
    · exact .inr ⟨_, .encodeShort short, h⟩
    · exact .inr ⟨_, .encodeAddr hb illegal, h⟩
    · exact .inr ⟨_, .encodeFull hb legal full, h⟩
    · exact .inl ⟨_, .frmEncode hb legal room, h⟩
  | frmValidate =>
    rcases execFrmValidate_cases s with ⟨short, h⟩ | ⟨f, long, hf, h⟩
    · exact .inl ⟨_, .validateShort short, h⟩
    · exact .inl ⟨_, .validateLong long hf, h⟩
  | frmClassify =>
    rcases execFrmClassify_cases s with ⟨other, h⟩ | ⟨code, shape, h⟩
    · exact .inl ⟨_, .classifyOther other, h⟩
    · exact .inl ⟨_, .classifyException shape, h⟩

/-- The premises settle the branch: a completion is the command's answer. -/
theorem Completes.exec_eq {s u : State} {i : Instr} (h : Completes s i u) : exec i s = complete u := by
  cases h with
  | crcInit => rfl
  | crcFeed b => rfl
  | crcRstd => rfl
  | crcRvnd => rfl
  | frmClear => rfl
  | frmPush b room => exact ((execFrmPush_cases b s).resolve_left fun h => room h.1).2
  | frmRead held => simp [exec, execFrmRead, Memory.read?, bufIndex, held]
  | frmEncode hb legal room =>
    have fits : ¬ s.params.maxFrame < s.len + 2 := Nat.not_lt.mpr room
    simp [exec, execFrmEncode, hb, (addressLegal_iff _).mpr legal, fits, encodedState]
  | validateShort short => simp only [exec, execFrmValidate, (frameFunction?_eq_none_iff _).mpr short]
  | validateLong long hf =>
    rcases execFrmValidate_cases s with ⟨short, -⟩ | ⟨g, -, hg, h⟩
    · omega
    · obtain rfl : g = _ := Option.some.inj (hg.symm.trans hf)
      exact h
  | classifyOther other => simp only [exec, execFrmClassify, other]
  | classifyException shape => simp only [exec, execFrmClassify, shape]

/-- The premises settle the branch: an error is the command's answer. -/
theorem Raises.exec_eq {s : State} {i : Instr} {e : CmdError} (h : Raises s i e) : exec i s = raise e s := by
  cases h with
  | pushFull b full => exact ((execFrmPush_cases b s).resolve_right fun h => h.1 full).2
  | readPastEnd past => simp [exec, execFrmRead, Memory.read?, bufIndex, past]
  | encodeShort short =>
    rcases execFrmEncode_cases s with ⟨-, h⟩ | ⟨a, f, p, hb, -⟩
    · exact h
    · simp [hb] at short
  | encodeAddr hb illegal =>
    have : addressLegal _ = false := Bool.eq_false_iff.mpr fun h => illegal ((addressLegal_iff _).mp h)
    simp [exec, execFrmEncode, hb, this]
  | encodeFull hb legal full =>
    have full : s.params.maxFrame < s.len + 2 := full
    simp [exec, execFrmEncode, hb, (addressLegal_iff _).mpr legal, full]

/-- A command that answers `t` completed its writes and cleared ERR, or raised an error in the state before it. -/
theorem exec_next_cases {i : Instr} {s t : State} (h : exec i s = .next t) :
    (∃ u, Completes s i u ∧ t = u.setErr 0#4) ∨ ∃ e, Raises s i e ∧ t = (s.setErr e.code).setSticky := by
  rcases exec_cases i s with ⟨u, hu, he⟩ | ⟨e, hr, he⟩
  · rw [he, complete_next] at h
    injection h with h
    exact .inl ⟨u, hu, h.symm⟩
  · rw [he, raise_next] at h
    injection h with h
    exact .inr ⟨e, hr, h.symm⟩

/-- A command word that answers `t` did the writes of a command, or raised an error. -/
theorem performWord_next_cases {w : Word} {s t : State} (h : performWord w s = .next t) :
    (∃ i u, Completes s i u ∧ t = u.setErr 0#4) ∨ ∃ e : CmdError, t = (s.setErr e.code).setSticky := by
  rcases performWord_cases w s with ⟨i, -, he⟩ | ⟨why, -, he⟩
  · rcases exec_next_cases (he ▸ h) with ⟨u, hu, ht⟩ | ⟨e, -, ht⟩
    · exact .inl ⟨i, u, hu, ht⟩
    · exact .inr ⟨e, ht⟩
  · rw [he, raise_next] at h
    injection h with h
    exact .inr ⟨_, h.symm⟩

/-! What the writes of no command touch. -/

theorem Completes.sticky {s u : State} {i : Instr} (h : Completes s i u) : u.status.sticky = s.status.sticky := by
  cases h <;> rfl

theorem Completes.params {s u : State} {i : Instr} (h : Completes s i u) : u.params = s.params := by
  cases h <;> rfl

theorem Completes.port {s u : State} {i : Instr} (h : Completes s i u) : u.port = s.port := by
  cases h <;> rfl

theorem Completes.reads {s u : State} {i : Instr} (h : Completes s i u) : u.reads = s.reads := by
  cases h <;> rfl

end Sys2Proof.Machine
end

section
/-! The invariants of spec/10_state.md R37: each operation keeps them where its command uses it, so every step does. -/

namespace Sys2Proof.Machine

variable {s : State}

/-! One rule per operation. -/

theorem State.Inv.withPort (h : s.Inv) (acts : List HostAct) : State.Inv { s with port := acts } := { h with }

theorem State.Inv.hostRead (h : s.Inv) (a : BitVec 3) : (s.hostRead a).Inv := { h with }

theorem State.Inv.setCrc (h : s.Inv) (v : Word) : (s.setCrc v).Inv := { h with }

theorem State.Inv.setOut (h : s.Inv) (v : Word) : (s.setOut v).Inv := { h with }

theorem State.Inv.report (h : s.Inv) (d : Dialect) (c : Word) : (s.report d c).Inv := { h with }

theorem State.Inv.setValid (h : s.Inv) {v : Bool} (hv : v = true → validateFrame s.params.excDialect s.buf = true) :
    (s.setValid v).Inv := { h with validIsTrue := hv }

theorem State.Inv.setExc_false (h : s.Inv) : (s.setExc false Excr.none).Inv :=
  { h with excIsTrue := fun hexc => by cases hexc
           noExcClears := fun _ => rfl }

theorem State.Inv.setExc_true (h : s.Inv) {code : Byte} (hc : excCode? s.buf = some code) :
    (s.setExc true { kind := (excKind code).value, code := code }).Inv :=
  { h with excIsTrue := fun _ => ⟨code, hc, rfl⟩
           noExcClears := fun hexc => by cases hexc }

/-- A new buffer that fits takes VALID and EXC with it, and so all that R37 says of its bytes. -/
theorem State.Inv.replaceBuf (h : s.Inv) {m : Memory} (hm : m.wf s.params = true) : (s.replaceBuf m).Inv :=
  { h with bufFits := hm
           validIsTrue := fun hvalid => by cases hvalid
           excIsTrue := fun hexc => by cases hexc
           noExcClears := fun _ => rfl }

theorem State.Inv.clearErr (h : s.Inv) : (s.setErr 0#4).Inv :=
  { h with errDefined := Nat.zero_le 5
           errIsSticky := fun hne => absurd rfl hne }

theorem State.Inv.raised (h : s.Inv) (e : CmdError) : ((s.setErr e.code).setSticky).Inv :=
  { h with errDefined := e.code_le_five
           errIsSticky := fun _ => rfl }

theorem State.init_inv {p : Params} (hp : p.Legal) : (State.init p).Inv where
  paramsLegal := hp
  bufFits := Memory.wf_clear p
  validIsTrue := fun hvalid => by cases hvalid
  excIsTrue := fun hexc => by cases hexc
  noExcClears := fun _ => rfl
  errDefined := Nat.zero_le 5
  errIsSticky := fun hne => absurd rfl hne

/-- After a reset the block is as `State.init` has it; the host's side plays no part in the invariants. -/
theorem State.Inv.assertReset (h : s.Inv) : s.assertReset.Inv := { State.init_inv h.paramsLegal with }

theorem State.Inv.buf_length_le (h : s.Inv) : s.buf.length ≤ s.params.maxFrame := of_decide_eq_true h.bufFits

/-! Commands and steps. -/

/-- The writes of every command keep the invariants: a command that appends has room, VALID and EXC are set on the frame
they speak of. -/
theorem Completes.inv {u : State} {i : Instr} (h : Completes s i u) (hs : s.Inv) : u.Inv := by
  cases h with
  | crcInit => exact hs.setCrc _
  | crcFeed b => exact hs.setCrc _
  | crcRstd => exact hs.report _ _
  | crcRvnd => exact hs.report _ _
  | frmClear => exact hs.replaceBuf (Memory.wf_clear _)
  | frmPush b room =>
    exact hs.replaceBuf (Memory.wf_append (Nat.lt_of_le_of_ne hs.buf_length_le room))
  | frmRead held => exact hs.setOut _
  | frmEncode hb legal room => exact (hs.replaceBuf (Memory.wf_append room)).report _ _
  | validateShort short => exact hs.setValid fun hv => by cases hv
  | validateLong long hf => exact (hs.setValid id).report _ _
  | classifyOther other => exact hs.setExc_false
  | classifyException shape => exact hs.setExc_true shape

theorem performWord_inv {w : Word} {t : State} (hs : s.Inv) (h : performWord w s = .next t) : t.Inv := by
  rcases performWord_next_cases h with ⟨i, u, hu, rfl⟩ | ⟨e, rfl⟩
  · exact (hu.inv hs).clearErr
  · exact hs.raised e

/-- Settles O47, along the ways a step can go: idle, a command word, a register read, a reset. -/
theorem everyStepKeepsTheInvariant : Obligations.EveryStepKeepsTheInvariant := by
  intro s t hs h
  rcases step_cases h with ⟨-, rfl⟩ | ⟨rest, ⟨w, -, -, hw⟩ | ⟨a, -, -, rfl⟩ | ⟨-, rfl⟩⟩
  · exact hs
  · exact performWord_inv (hs.withPort rest) hw
  · exact (hs.withPort rest).hostRead a
  · exact (hs.withPort rest).assertReset

/-- Settles O48. -/
theorem resetMeetsTheInvariant : Obligations.ResetMeetsTheInvariant :=
  ⟨State.init_inv (by decide), fun _ hp => State.init_inv hp⟩

/-- The register is the length modulo 256. -/
theorem State.readReg_len_toNat (s : State) : (s.readReg 2#3).toNat = s.buf.length % 256 := by
  rw [State.readReg_len, zext16, BitVec.toNat_setWidth, State.lenReg, BitVec.toNat_ofNat, State.len]
  omega

/-- Settles O52: no legal MAX_FRAME is above 255, so the 8-bit register holds the length whole. -/
theorem lenRegisterCountsTheBytes : Obligations.LenRegisterCountsTheBytes := by
  intro s hs
  have fits := hs.buf_length_le
  have small := hs.paramsLegal.2
  exact ⟨by rw [State.readReg_len_toNat, Nat.mod_eq_of_lt (by omega)], fits⟩

end Sys2Proof.Machine
end

section
/-! The write matrix (spec/10_state.md R35), column by column, and the bytes of the buffer (R22). -/

namespace Sys2Proof

/-- The commands that change `BUF` (R22, R35). -/
@[simp] def Instr.ChangesBuf (i : Instr) : Prop := i = .frmClear ∨ i = .frmEncode ∨ ∃ b, i = .frmPush b

/-- The six commands over the frame buffer (R71). -/
@[simp] def Instr.IsFrame (i : Instr) : Prop :=
  i ∈ [Instr.frmClear, .frmEncode, .frmValidate, .frmClassify] ∨ (∃ b, i = .frmPush b) ∨ (∃ k, i = .frmRead k)

end Sys2Proof

namespace Sys2Proof.Machine

section
variable {s u : State} {i : Instr}

theorem Completes.crc_column (h : Completes s i u) : u.crc = s.crc ∨ i = .crcInit ∨ ∃ b, i = .crcFeed b := by
  cases h with
  | crcInit => exact .inr (.inl rfl)
  | crcFeed b => exact .inr (.inr ⟨b, rfl⟩)
  | _ => exact .inl rfl

theorem Completes.buf_column (h : Completes s i u) : u.buf = s.buf ∨ i.ChangesBuf := by
  cases h with
  | frmClear => exact .inr (.inl rfl)
  | frmEncode => exact .inr (.inr (.inl rfl))
  | frmPush b => exact .inr (.inr (.inr ⟨b, rfl⟩))
  | _ => exact .inl rfl

theorem Completes.out_column (h : Completes s i u) :
    u.out = s.out ∨ i = .crcRstd ∨ i = .crcRvnd ∨ i = .frmEncode ∨ (i = .frmValidate ∧ 4 ≤ s.buf.length) ∨ ∃ k, i = .frmRead k := by
  cases h with
  | crcRstd => exact .inr (.inl rfl)
  | crcRvnd => exact .inr (.inr (.inl rfl))
  | frmEncode => exact .inr (.inr (.inr (.inl rfl)))
  | validateLong long => exact .inr (.inr (.inr (.inr (.inl ⟨rfl, long⟩))))
  | @frmRead k => exact .inr (.inr (.inr (.inr (.inr ⟨k, rfl⟩))))
  | _ => exact .inl rfl

theorem Completes.valid_column (h : Completes s i u) : u.status.valid = s.status.valid ∨ i = .frmValidate ∨
    (u.status.valid = false ∧ i.ChangesBuf) := by
  cases h with
  | validateShort | validateLong => exact .inr (.inl rfl)
  | frmClear => exact .inr (.inr ⟨rfl, .inl rfl⟩)
  | frmEncode => exact .inr (.inr ⟨rfl, .inr (.inl rfl)⟩)
  | frmPush b => exact .inr (.inr ⟨rfl, .inr (.inr ⟨b, rfl⟩)⟩)
  | _ => exact .inl rfl

theorem Completes.dialect_column (h : Completes s i u) : u.status.dialect = s.status.dialect ∨
    (i = .crcRstd ∧ u.status.dialect = .standard) ∨ (i = .crcRvnd ∧ u.status.dialect = .vendor) ∨ i = .frmEncode ∨
      (i = .frmValidate ∧ 4 ≤ s.buf.length) := by
  cases h with
  | crcRstd => exact .inr (.inl ⟨rfl, rfl⟩)
  | crcRvnd => exact .inr (.inr (.inl ⟨rfl, rfl⟩))
  | frmEncode => exact .inr (.inr (.inr (.inl rfl)))
  | validateLong long => exact .inr (.inr (.inr (.inr ⟨rfl, long⟩)))
  | _ => exact .inl rfl

theorem Completes.exc_column (h : Completes s i u) : (u.status.exc = s.status.exc ∧ u.excr = s.excr) ∨
    i = .frmClassify ∨ (u.status.exc = false ∧ u.excr = Excr.none ∧ i.ChangesBuf) := by
  cases h with
  | classifyOther | classifyException => exact .inr (.inl rfl)
  | frmClear => exact .inr (.inr ⟨rfl, rfl, .inl rfl⟩)
  | frmEncode => exact .inr (.inr ⟨rfl, rfl, .inr (.inl rfl)⟩)
  | frmPush b => exact .inr (.inr ⟨rfl, rfl, .inr (.inr ⟨b, rfl⟩)⟩)
  | _ => exact .inl ⟨rfl, rfl⟩

end

/-- Only the commands that check room, an index or an address can fail. -/
theorem Raises.command {s : State} {i : Instr} {e : CmdError} (h : Raises s i e) :
    i = .frmEncode ∨ (∃ b, i = .frmPush b) ∨ ∃ k, i = .frmRead k := by
  cases h with
  | encodeShort | encodeAddr | encodeFull => exact .inl rfl
  | pushFull b => exact .inr (.inl ⟨b, rfl⟩)
  | @readPastEnd k => exact .inr (.inr ⟨k, rfl⟩)

/-- Settles O43: a completion by the columns of the matrix, an error because it changes ERR and STICKY alone. -/
theorem onlyTheListedCommandsWrite : Obligations.OnlyTheListedCommandsWrite := by
  intro i s t h
  rcases exec_next_cases h with ⟨u, hu, rfl⟩ | ⟨e, hr, rfl⟩
  · exact ⟨hu.crc_column, hu.buf_column, hu.out_column, hu.valid_column, hu.dialect_column, hu.exc_column,
      .inl hu.sticky, hu.params, hu.port, hu.reads⟩
  · exact ⟨.inl rfl, .inl rfl, .inl rfl, .inl rfl, .inl rfl, .inl ⟨rfl, rfl⟩,
      .inr ⟨rfl, e.code_ne_zero, hr.command⟩, rfl, rfl, rfl⟩

/-- An append shows only at the indices it fills. -/
theorem Memory.read?_append_of_outside (m : Memory) (bs : List Byte) {k : Nat}
    (h : k < m.length ∨ m.length + bs.length ≤ k) : (m.append bs).read? k = m.read? k := by
  rcases h with below | past
  · exact m.read?_append_lt bs below
  · rw [(Memory.read?_eq_none_iff m k).mpr (by omega),
      (Memory.read?_eq_none_iff _ k).mpr (by rw [Memory.append, List.length_append]; exact past)]

@[simp] theorem wireBytes_length (r : Rendering) : (wireBytes r).length = 2 := rfl

/-- Settles O44: the two commands that store bytes append them. -/
theorem bufferBytesAreNeverOverwritten : Obligations.BufferBytesAreNeverOverwritten := by
  intro i s t h k
  rcases exec_next_cases h with ⟨u, hu, rfl⟩ | ⟨e, hr, rfl⟩
  · cases hu with
    | frmClear => exact (Memory.read?_eq_none_iff [] k).mpr (Nat.zero_le k)
    | frmPush b =>
      intro hk
      exact Memory.read?_append_of_outside s.buf [b] (by rw [List.length_singleton]; omega)
    | frmEncode =>
      intro h0 h1
      exact Memory.read?_append_of_outside s.buf (wireBytes _) (by rw [wireBytes_length]; omega)
    | _ => rfl
  · cases hr with
    | pushFull => exact fun _ => rfl
    | readPastEnd => rfl
    | encodeShort | encodeAddr | encodeFull => exact fun _ _ => rfl

end Sys2Proof.Machine
end

section
/-! What no command reads: the frame commands not `CRC` (spec/10_state.md R21), and no command the results of earlier
ones (R26, spec/41_frame_codec.md R121, spec/42_exception_decoder.md R155). The premises of `Completes` and `Raises` speak of
the buffer and the parameters only, so they hold of a state that differs elsewhere. -/

namespace Sys2Proof.Machine

theorem Completes.setCrc {s u : State} {i : Instr} (h : Completes s i u) (hi : i.IsFrame) (c : Word) :
    Completes (s.setCrc c) i (u.setCrc c) := by
  cases h with
  | crcInit | crcFeed | crcRstd | crcRvnd => simp at hi
  | frmClear => exact .frmClear
  | frmPush b room => exact .frmPush b room
  | frmRead held => exact .frmRead held
  | frmEncode hb legal room => exact .frmEncode hb legal room
  | validateShort short => exact .validateShort short
  | validateLong long hf => exact .validateLong long hf
  | classifyOther other => exact .classifyOther other
  | classifyException shape => exact .classifyException shape

/-- An error depends on the buffer and the parameters alone. -/
theorem Raises.congr {s s' : State} {i : Instr} {e : CmdError} (h : Raises s i e) (hb : s'.buf = s.buf)
    (hp : s'.params = s.params) : Raises s' i e := by
  cases h with
  | pushFull b full => exact .pushFull b (by rw [hp, hb, full])
  | readPastEnd past => exact .readPastEnd (by rwa [hb])
  | encodeShort short => exact .encodeShort (by rwa [hb])
  | encodeAddr heq illegal => exact .encodeAddr (hb.trans heq) illegal
  | encodeFull heq legal full => exact .encodeFull (hb.trans heq) legal (by rwa [hp, hb])

/-- Settles O45. -/
theorem frameCommandsIgnoreCrc : Obligations.FrameCommandsIgnoreCrc := by
  intro i s t c hi h
  rcases exec_next_cases h with ⟨u, hu, rfl⟩ | ⟨e, hr, rfl⟩
  · exact (hu.setCrc hi c).exec_eq
  · exact (hr.congr (s' := s.setCrc c) rfl rfl).exec_eq

/-- `s` with other values in OUT, STATUS and EXCR. -/
def State.withResults (s : State) (o : Word) (st : Status) (e : Excr) : State :=
  { s with out := o, status := st, excr := e }

/-- What `i` writes into OUT, STATUS and EXCR when it completes from `s` is the same in `u` and in `v` (R35). -/
structure SameWrites (i : Instr) (s u v : State) : Prop where
  crc : v.crc = u.crc
  buf : v.buf = u.buf
  rendered : i = .crcRstd ∨ i = .crcRvnd ∨ i = .frmEncode ∨ (i = .frmValidate ∧ 4 ≤ s.buf.length) →
    v.out = u.out ∧ v.status.dialect = u.status.dialect
  read : (∃ k, i = .frmRead k) → v.out = u.out
  valid : i = .frmValidate ∨ i.ChangesBuf → v.status.valid = u.status.valid
  exc : i = .frmClassify ∨ i.ChangesBuf → v.status.exc = u.status.exc ∧ v.excr = u.excr

/-- A command completes with the same writes over any earlier results. In each case the clauses of `SameWrites` hold
because the command writes that part, or because the command is none that the clause names. -/
theorem Completes.withResults {s u : State} {i : Instr} (h : Completes s i u) (o : Word) (st : Status) (e : Excr) :
    ∃ v, Completes (s.withResults o st e) i v ∧ SameWrites i s u v := by
  cases h with
  | crcInit => exact ⟨_, .crcInit, rfl, rfl, by simp, by simp, by simp, by simp⟩
  | crcFeed b => exact ⟨_, .crcFeed b, rfl, rfl, by simp, by simp, by simp, by simp⟩
  | crcRstd => exact ⟨_, .crcRstd, rfl, rfl, fun _ => ⟨rfl, rfl⟩, by simp, by simp, by simp⟩
  | crcRvnd => exact ⟨_, .crcRvnd, rfl, rfl, fun _ => ⟨rfl, rfl⟩, by simp, by simp, by simp⟩
  | frmClear => exact ⟨_, .frmClear, rfl, rfl, by simp, by simp, fun _ => rfl, fun _ => ⟨rfl, rfl⟩⟩
  | frmPush b room => exact ⟨_, .frmPush b room, rfl, rfl, by simp, by simp, fun _ => rfl, fun _ => ⟨rfl, rfl⟩⟩
  | frmRead held => exact ⟨_, .frmRead held, rfl, rfl, by simp, fun _ => rfl, by simp, by simp⟩
  | frmEncode hb legal room =>
    exact ⟨_, .frmEncode hb legal room, rfl, rfl, fun _ => ⟨rfl, rfl⟩, by simp, fun _ => rfl, fun _ => ⟨rfl, rfl⟩⟩
  | validateShort short => exact ⟨_, .validateShort short, rfl, rfl, by simp [short], by simp, fun _ => rfl, by simp⟩
  | validateLong long hf =>
    exact ⟨_, .validateLong long hf, rfl, rfl, fun _ => ⟨rfl, rfl⟩, by simp, fun _ => rfl, by simp⟩
  | classifyOther other => exact ⟨_, .classifyOther other, rfl, rfl, by simp, by simp, by simp, fun _ => ⟨rfl, rfl⟩⟩
  | classifyException shape =>
    exact ⟨_, .classifyException shape, rfl, rfl, by simp, by simp, by simp, fun _ => ⟨rfl, rfl⟩⟩

/-- Settles O46: a completion writes the same over any earlier results; after an error only STICKY is to be compared,
and it is 1 both times. -/
theorem noCommandReadsEarlierResults : Obligations.NoCommandReadsEarlierResults := by
  intro i s t o st e h renders changesBuf
  rcases exec_next_cases h with ⟨u, hu, rfl⟩ | ⟨c, hr, rfl⟩
  · obtain ⟨v, hv, same⟩ := hu.withResults o st e
    refine ⟨v.setErr 0#4, hv.exec_eq, same.crc, same.buf, rfl, ?_, fun _ => same.read, ?_, ?_,
      fun hne => absurd rfl hne⟩
    · rintro (h | h | ⟨h, -⟩ | h)
      · exact same.rendered (.inl h)
      · exact same.rendered (.inr (.inl h))
      · exact same.rendered (.inr (.inr (.inl h)))
      · exact same.rendered (.inr (.inr (.inr h)))
    · exact fun hw => same.valid (hw.imp_right And.right)
    · exact fun hw => same.exc (hw.imp_right And.right)
  · have failed : c.code ≠ 0#4 := c.code_ne_zero
    have command := hr.command
    refine ⟨_, (hr.congr (s' := s.withResults o st e) rfl rfl).exec_eq, rfl, rfl, rfl, ?_, fun h0 => absurd h0 failed,
      ?_, ?_, fun _ => rfl⟩
    · rintro (rfl | rfl | ⟨-, h0⟩ | ⟨rfl, -⟩)
      · simp at command
      · simp at command
      · exact absurd h0 failed
      · simp at command
    · rintro (rfl | ⟨h0, -⟩)
      · simp at command
      · exact absurd h0 failed
    · rintro (rfl | ⟨h0, -⟩)
      · simp at command
      · exact absurd h0 failed

end Sys2Proof.Machine
end

section
/-! STICKY over a run (spec/10_state.md R29, R37 (e)). -/

namespace Sys2Proof.Machine

/-- Some state within the first `k` steps from `s`, `s` included, holds an error code. -/
def ErrorWithin (k : Nat) (s : State) : Prop :=
  ∃ (j : Nat) (u : State), j ≤ k ∧ runFor j s = .next u ∧ u.status.err ≠ 0#4

theorem errorWithin_zero (s : State) : ErrorWithin 0 s ↔ s.status.err ≠ 0#4 := by
  constructor
  · rintro ⟨j, u, hj, hu, he⟩
    obtain rfl : j = 0 := Nat.le_zero.mp hj
    injection hu with hu
    exact hu ▸ he
  · exact fun he => ⟨0, s, Nat.le_refl 0, rfl, he⟩

theorem errorWithin_succ {k : Nat} {s m : State} (h : step s = .next m) :
    ErrorWithin (k + 1) s ↔ s.status.err ≠ 0#4 ∨ ErrorWithin k m := by
  constructor
  · rintro ⟨j, u, hj, hu, he⟩
    cases j with
    | zero =>
      injection hu with hu
      exact .inl (hu ▸ he)
    | succ j => exact .inr ⟨j, u, Nat.le_of_succ_le_succ hj, by rwa [runFor_succ_of_next h] at hu, he⟩
  · rintro (he | ⟨j, u, hj, hu, he⟩)
    · exact ⟨0, s, Nat.zero_le _, rfl, he⟩
    · exact ⟨j + 1, u, Nat.succ_le_succ hj, by rwa [runFor_succ_of_next h], he⟩

/-- A command word sets STICKY exactly when it ends in an error, and leaves it otherwise. -/
theorem performWord_sticky {w : Word} {s t : State} (h : performWord w s = .next t) :
    t.port = s.port ∧ (t.status.sticky = true ↔ s.status.sticky = true ∨ t.status.err ≠ 0#4) := by
  rcases performWord_next_cases h with ⟨i, u, hu, rfl⟩ | ⟨e, rfl⟩
  · exact ⟨hu.port, by simp [hu.sticky]⟩
  · exact ⟨rfl, by simp [e.code_ne_zero]⟩

/-- A step that is no reset does so too, from a state whose error has set STICKY. -/
theorem step_sticky {s t : State} (noReset : HostAct.reset ∉ s.port)
    (hs : s.status.err ≠ 0#4 → s.status.sticky = true) (h : step s = .next t) :
    HostAct.reset ∉ t.port ∧ (t.status.sticky = true ↔ s.status.sticky = true ∨ t.status.err ≠ 0#4) := by
  rcases step_cases h with ⟨-, rfl⟩ | ⟨rest, ⟨w, hp, -, hw⟩ | ⟨a, hp, -, rfl⟩ | ⟨hp, -⟩⟩
  · exact ⟨noReset, (or_iff_left_of_imp hs).symm⟩
  · obtain ⟨port, sticky⟩ := performWord_sticky hw
    rw [port]
    exact ⟨fun hr => noReset (hp ▸ .tail _ hr), sticky⟩
  · exact ⟨fun hr => noReset (hp ▸ .tail _ hr), (or_iff_left_of_imp hs).symm⟩
  · exact absurd (hp ▸ .head rest) noReset

/-- Over a run without a reset STICKY ends set exactly when it began set or an error came on the way. -/
theorem runFor_sticky {k : Nat} {s t : State} (noReset : HostAct.reset ∉ s.port)
    (hs : s.status.err ≠ 0#4 → s.status.sticky = true) (h : runFor k s = .next t) :
    t.status.sticky = true ↔ s.status.sticky = true ∨ ErrorWithin k s := by
  induction k generalizing s with
  | zero =>
    injection h with h
    rw [errorWithin_zero, or_iff_left_of_imp hs, ← h]
  | succ k ih =>
    obtain ⟨m, hm, h⟩ := step_of_runFor_succ h
    obtain ⟨noReset', sticky⟩ := step_sticky noReset hs hm
    have withinM : ErrorWithin k m ↔ m.status.err ≠ 0#4 ∨ ErrorWithin k m :=
      (or_iff_right_of_imp fun he => ⟨0, m, Nat.zero_le k, rfl, he⟩).symm
    calc t.status.sticky = true
        ↔ m.status.sticky = true ∨ ErrorWithin k m := ih noReset' (fun he => sticky.mpr (.inr he)) h
      _ ↔ s.status.sticky = true ∨ ErrorWithin k m := by rw [sticky, or_assoc, ← withinM]
      _ ↔ s.status.sticky = true ∨ ErrorWithin (k + 1) s := by
          rw [errorWithin_succ hm, ← or_assoc, or_iff_left_of_imp hs]

/-- Settles O50: the run starts with STICKY and ERR 0. -/
theorem stickyRecordsEveryError : Obligations.StickyRecordsEveryError := by
  intro k s t clean noErr noReset h
  rw [runFor_sticky noReset (fun he => absurd noErr he) h]
  exact or_iff_right (Bool.eq_false_iff.mp clean)

end Sys2Proof.Machine
end

section
/-! The register read port (spec/20_memory.md R51, spec/10_state.md R24, R30, R31) and reset (R36). -/

namespace Sys2Proof.Machine

/-- `STATUS` bit by bit (R24); the reserved bits 3 and 15:9 are among them (R30). -/
theorem Status.getLsbD_word (t : Status) (i : Nat) : t.word.getLsbD i =
    if i = 0 then t.valid else if i = 1 then decide (t.dialect = .vendor) else if i = 2 then t.exc
    else if i = 3 then false else if i < 8 then t.err.getLsbD (i - 4) else decide (i = 8) && t.sticky := by
  have fields : t.word.getLsbD i = (0#7 ++ BitVec.ofBool t.sticky ++ t.err ++ 0#1 ++ BitVec.ofBool t.exc ++
      t.dialect.bit ++ BitVec.ofBool t.valid : BitVec (7 + 1 + 4 + 1 + 1 + 1 + 1)).getLsbD i := rfl
  have dialect : t.dialect.bit = BitVec.ofBool (decide (t.dialect = .vendor)) := by cases t.dialect <;> rfl
  simp only [fields, dialect, BitVec.getLsbD_append, BitVec.getLsbD_ofBool, BitVec.getLsbD_zero]
  rcases Nat.lt_or_ge i 8 with low | high
  · interval_cases i <;> simp
  · grind

theorem Status.word_err (t : Status) : t.word.extractLsb' 4 4 = t.err := by
  refine BitVec.eq_of_getLsbD_eq fun i hi => ?_
  rw [BitVec.getLsbD_extractLsb', Status.getLsbD_word]
  interval_cases i <;> simp

theorem Status.word_reserved (t : Status) : t.word.extractLsb' 9 7 = 0#7 := by
  refine BitVec.eq_of_getLsbD_eq fun i hi => ?_
  rw [BitVec.getLsbD_extractLsb', Status.getLsbD_word]
  interval_cases i <;> simp

theorem Excr.word_kind (e : Excr) : e.word.extractLsb' 0 3 = e.kind :=
  (BitVec.extractLsb'_append_eq_of_add_le (Nat.le_refl 3)).trans BitVec.extractLsb'_eq_self

theorem Excr.word_reserved (e : Excr) : e.word.extractLsb' 3 5 = 0#5 :=
  (BitVec.extractLsb'_append_eq_of_le (Nat.le_refl 3)).trans
    ((BitVec.extractLsb'_append_eq_of_add_le (Nat.le_refl 5)).trans BitVec.extractLsb'_eq_self)

theorem Excr.word_code (e : Excr) : e.word.extractLsb' 8 8 = e.code :=
  (BitVec.extractLsb'_append_eq_of_le (by decide : 3 ≤ 8)).trans
    ((BitVec.extractLsb'_append_eq_of_le (Nat.le_refl 5)).trans BitVec.extractLsb'_eq_self)

/-- Settles O8. -/
theorem statusAndExcrBitsReadInPlace : Obligations.StatusAndExcrBitsReadInPlace := by
  intro s
  rw [State.readReg_status, State.readReg_excr]
  have bit := s.status.getLsbD_word
  exact ⟨bit 0, bit 1, bit 2, bit 3, s.status.word_err, (bit 8).trans (Bool.true_and _), s.status.word_reserved,
    s.excr.word_kind, s.excr.word_reserved, s.excr.word_code⟩

theorem step_read {s : State} {a : BitVec 3} {rest : List HostAct} (hs : s.Sound) (hp : s.port = .read a :: rest) :
    step s = .next (State.hostRead { s with port := rest } a) := by
  rw [step_of_port_cons hp]
  exact guarded_of_sound ((s.sound_port rest).mpr hs) fun t => .next (t.hostRead a)

/-- Settles O7. -/
theorem registerReadMapHasNoSideEffect : Obligations.RegisterReadMapHasNoSideEffect :=
  ⟨fun s => ⟨s.readReg_status, s.readReg_crc, s.readReg_len, s.readReg_out, s.readReg_excr, rfl, rfl, rfl⟩,
    fun _ _ _ hs hp => step_read hs hp⟩

theorem step_reset {s : State} {rest : List HostAct} (hp : s.port = .reset :: rest) :
    step s = .next (State.assertReset { s with port := rest }) :=
  step_of_port_cons hp

theorem State.init_status_word (p : Params) : (State.init p).status.word = 0x0000#16 := by
  change State.reset.status.word = 0x0000#16
  decide

theorem Excr.none_word : Excr.none.word = 0x0000#16 := by decide

/-- Settles O9. -/
theorem resetSetsEveryRegister : Obligations.ResetSetsEveryRegister :=
  ⟨fun _ _ hp => ⟨_, step_reset hp, rfl, rfl, rfl, rfl, rfl, rfl⟩,
    fun p => ⟨State.init_status_word p, rfl, rfl, rfl, Excr.none_word, rfl⟩⟩

end Sys2Proof.Machine
end

section
/-! A command and the register read behind it (spec/20_memory.md R60): what the host has still to issue plays no part in a
command, and a command leaves no reserved value, so the read is served in the state the command left. -/

namespace Sys2Proof

@[simp] theorem decode_encode (i : Instr) : decode (encode i) = .legal i := by
  rw [decode, wordOp_encode, wordImm_encode]
  cases i <;> rfl

end Sys2Proof

namespace Sys2Proof.Machine

/-! No command sees or changes the port. -/

theorem Completes.withPort {s u : State} {i : Instr} (h : Completes s i u) (acts : List HostAct) :
    Completes { s with port := acts } i { u with port := acts } := by
  cases h with
  | crcInit => exact .crcInit
  | crcFeed b => exact .crcFeed b
  | crcRstd => exact .crcRstd
  | crcRvnd => exact .crcRvnd
  | frmClear => exact .frmClear
  | frmPush b room => exact .frmPush b room
  | frmRead held => exact .frmRead held
  | frmEncode hb legal room => exact .frmEncode hb legal room
  | validateShort short => exact .validateShort short
  | validateLong long hf => exact .validateLong long hf
  | classifyOther other => exact .classifyOther other
  | classifyException shape => exact .classifyException shape

theorem exec_withPort {i : Instr} {s t : State} (h : exec i s = .next t) (acts : List HostAct) :
    exec i { s with port := acts } = .next { t with port := acts } := by
  rcases exec_next_cases h with ⟨u, hu, rfl⟩ | ⟨e, hr, rfl⟩
  · exact (hu.withPort acts).exec_eq
  · exact (hr.congr (s' := { s with port := acts }) rfl rfl).exec_eq

theorem exec_port {i : Instr} {s t : State} (h : exec i s = .next t) : t.port = s.port := by
  rcases exec_next_cases h with ⟨u, hu, rfl⟩ | ⟨e, -, rfl⟩
  · exact hu.port
  · rfl

/-! No command writes a reserved value (spec/10_state.md R28, R31). -/

theorem State.sound_iff (s : State) : s.Sound ↔ s.status.err.toNat ≤ 5 ∧ s.excr.kind ≠ 7#3 := by
  rw [State.Sound, State.reservedValue?]
  split_ifs with reservedErr reservedKind
  · simp [reservedErr]
  · simp [reservedKind]
  · simp [reservedKind, Nat.le_of_not_lt reservedErr]

theorem ExcKind.value_ne_seven (k : ExcKind) : k.value ≠ 7#3 := by cases k <;> decide

theorem Completes.kind_ne_seven {s u : State} {i : Instr} (h : Completes s i u) (hs : s.excr.kind ≠ 7#3) :
    u.excr.kind ≠ 7#3 := by
  cases h with
  | frmClear | frmPush | frmEncode | classifyOther => exact (by decide : Excr.none.kind ≠ 7#3)
  | @classifyException code => exact (excKind code).value_ne_seven
  | _ => exact hs

theorem exec_sound {i : Instr} {s t : State} (hs : s.Sound) (h : exec i s = .next t) : t.Sound := by
  have kind := ((State.sound_iff s).mp hs).2
  rw [State.sound_iff]
  rcases exec_next_cases h with ⟨u, hu, rfl⟩ | ⟨e, -, rfl⟩
  · exact ⟨Nat.zero_le 5, hu.kind_ne_seven kind⟩
  · exact ⟨e.code_le_five, kind⟩

/-- Performing a command leaves the port for the next step to serve. -/
theorem step_encode {s t : State} {i : Instr} {rest : List HostAct} (acts : List HostAct) (hs : s.Sound)
    (hp : s.port = .command (encode i) :: acts) (h : exec i { s with port := rest } = .next t) :
    step s = .next { t with port := acts } := by
  rw [step_legal_command hs hp (decode_encode i)]
  exact exec_withPort h acts

/-- Settles O12: the first step leaves what the command answers with the read still to serve, the second serves it. -/
theorem readAfterCommandSeesItsWrites : Obligations.ReadAfterCommandSeesItsWrites := by
  intro s t i a rest hs hp h
  have command : step s = .next { t with port := .read a :: rest } := step_encode _ hs hp h
  have sound : t.Sound := exec_sound ((s.sound_port rest).mpr hs) h
  have port : t.port = rest := exec_port h
  have read := step_read ((t.sound_port (.read a :: rest)).mpr sound) rfl
  rw [runFor_succ_of_next command, runFor_succ_of_next read, runFor_zero, ← port]
  rfl

end Sys2Proof.Machine
end

section
/-! The command words (spec/30_encoding.md R70 to R74): decoding inverts encoding, which words are illegal, and how many
are not. -/

namespace Sys2Proof

theorem noOperand_eq_legal {i j : Instr} {op imm : Byte} (h : noOperand i op imm = .legal j) : imm = 0x00#8 ∧ j = i := by
  unfold noOperand at h
  split at h
  · injection h with h
    exact ⟨‹_›, h.symm⟩
  · cases h

/-- Fields that stand for a command are its opcode and its operand field. -/
theorem decodeFields_eq_legal {op imm : Byte} {i : Instr} (h : decodeFields op imm = .legal i) :
    op = i.op ∧ imm = i.imm := by
  unfold decodeFields at h
  split at h
  -- the three commands with an operand, then an opcode outside the map; the rest take none
  case h_2 | h_6 | h_7 =>
    injection h with h
    exact h ▸ ⟨rfl, rfl⟩
  case h_11 => cases h
  all_goals
    obtain ⟨rfl, rfl⟩ := noOperand_eq_legal h
    exact ⟨rfl, rfl⟩

theorem encode_of_fields {w : Word} {i : Instr} (hop : wordOp w = i.op) (himm : wordImm w = i.imm) : encode i = w := by
  rw [encode, ← hop, ← himm, wordOp_append_wordImm]

theorem decode_eq_legal_iff (w : Word) (i : Instr) : decode w = .legal i ↔ w = encode i := by
  constructor
  · intro h
    obtain ⟨hop, himm⟩ := decodeFields_eq_legal h
    exact (encode_of_fields hop himm).symm
  · rintro rfl
    exact decode_encode i

/-- Settles O1: the fields a word is decoded by are all of it. -/
theorem decodeInvertsEncodeExactly : Obligations.DecodeInvertsEncodeExactly := decode_eq_legal_iff

theorem encode_injective : Function.Injective encode := fun i j h =>
  Decoded.legal.inj (by rw [← decode_encode i, h, decode_encode])

/-! The illegal words (R73). -/

theorem Instr.op_mem (i : Instr) :
    i.op ∈ [0x01#8, 0x02#8, 0x03#8, 0x04#8, 0x10#8, 0x11#8, 0x12#8, 0x20#8, 0x21#8, 0x30#8] := by
  cases i <;> simp [Instr.op]

/-- The opcode tells a no-operand command, whose operand field is then zero. -/
theorem Instr.imm_eq_zero {i : Instr} (h : i.op ∈ [0x01#8, 0x03#8, 0x04#8, 0x10#8, 0x20#8, 0x21#8, 0x30#8]) :
    i.imm = 0x00#8 := by
  cases i with
  | crcFeed | frmPush | frmRead => simp [Instr.op] at h
  | _ => rfl

/-- Every opcode of the map with every operand it allows belongs to a command. -/
theorem exists_instr_of_fields {op imm : Byte}
    (assigned : op ∈ [0x01#8, 0x02#8, 0x03#8, 0x04#8, 0x10#8, 0x11#8, 0x12#8, 0x20#8, 0x21#8, 0x30#8])
    (zero : op ∈ [0x01#8, 0x03#8, 0x04#8, 0x10#8, 0x20#8, 0x21#8, 0x30#8] → imm = 0x00#8) :
    ∃ i : Instr, op = i.op ∧ imm = i.imm := by
  simp only [List.mem_cons, List.not_mem_nil, or_false] at assigned
  rcases assigned with rfl | rfl | rfl | rfl | rfl | rfl | rfl | rfl | rfl | rfl
  · exact ⟨.crcInit, rfl, zero (by decide)⟩
  · exact ⟨.crcFeed imm, rfl, rfl⟩
  · exact ⟨.crcRstd, rfl, zero (by decide)⟩
  · exact ⟨.crcRvnd, rfl, zero (by decide)⟩
  · exact ⟨.frmClear, rfl, zero (by decide)⟩
  · exact ⟨.frmPush imm, rfl, rfl⟩
  · exact ⟨.frmRead imm, rfl, rfl⟩
  · exact ⟨.frmEncode, rfl, zero (by decide)⟩
  · exact ⟨.frmValidate, rfl, zero (by decide)⟩
  · exact ⟨.frmClassify, rfl, zero (by decide)⟩

/-- Settles O2: a command's word is in neither of the two classes, and a word in neither class is a command's. -/
theorem illegalWordsRaiseAndChangeNothingElse : Obligations.IllegalWordsRaiseAndChangeNothingElse := by
  refine ⟨?_, ?_, .inl (by decide), .inl (by decide)⟩
  · intro w s illegal
    rcases Machine.performWord_cases w s with ⟨i, hi, -⟩ | ⟨why, -, h⟩
    · obtain ⟨hop, himm⟩ : w.extractLsb' 8 8 = i.op ∧ w.extractLsb' 0 8 = i.imm := decodeFields_eq_legal hi
      rcases illegal with unassigned | ⟨noOperand, notZero⟩
      · exact absurd (hop ▸ i.op_mem) unassigned
      · exact absurd (himm.trans (Instr.imm_eq_zero (hop ▸ noOperand))) notZero
    · rw [h, Machine.raise_next]
      rfl
  · intro w legal
    obtain ⟨assigned, zero⟩ := not_or.mp legal
    obtain ⟨i, hop, himm⟩ := exists_instr_of_fields (not_not.mp assigned) fun h => by_contra fun hne => zero ⟨h, hne⟩
    exact ⟨i, (decode_eq_legal_iff w i).mpr (encode_of_fields hop himm).symm⟩

/-! The number of legal words (R74). -/

def allBytes : List Byte := (List.finRange 256).map BitVec.ofFin

/-- The seven commands without an operand, and the three others with each operand. -/
def allInstrs : List Instr :=
  [.crcInit, .crcRstd, .crcRvnd, .frmClear, .frmEncode, .frmValidate, .frmClassify] ++
    (allBytes.map .crcFeed ++ (allBytes.map .frmPush ++ allBytes.map .frmRead))

theorem mem_allBytes (b : Byte) : b ∈ allBytes := List.mem_map.mpr ⟨b.toFin, List.mem_finRange _, rfl⟩

theorem allBytes_nodup : allBytes.Nodup := (List.nodup_finRange 256).map fun _ _ h => BitVec.ofFin.inj h

theorem mem_allInstrs (i : Instr) : i ∈ allInstrs := by
  cases i <;> simp [allInstrs, mem_allBytes]

theorem allInstrs_nodup : allInstrs.Nodup := by
  have feeds := allBytes_nodup.map fun _ _ => Instr.crcFeed.inj
  have pushes := allBytes_nodup.map fun _ _ => Instr.frmPush.inj
  have reads := allBytes_nodup.map fun _ _ => Instr.frmRead.inj
  exact List.Nodup.append (by decide) (feeds.append (pushes.append reads (by simp [List.Disjoint]))
    (by simp [List.Disjoint])) (by simp [List.Disjoint])

theorem allInstrs_length : allInstrs.length = 775 := by simp [allInstrs, allBytes]

theorem instr?_decode_isSome_iff (w : Word) : (decode w).instr?.isSome ↔ ∃ i, w = encode i := by
  simp only [Option.isSome_iff_exists, Decoded.instr?_eq_some_iff, decode_eq_legal_iff]

/-- The legal words, in rising order, are the words of all the commands, each once. -/
theorem legalWords_perm :
    ((List.range 65536).filter fun n => (decode (BitVec.ofNat 16 n)).instr?.isSome).Perm
      (allInstrs.map fun i => (encode i).toNat) := by
  refine (List.perm_ext_iff_of_nodup (List.nodup_range.filter _)
    (allInstrs_nodup.map fun _ _ h => encode_injective (BitVec.eq_of_toNat_eq h))).mpr fun n => ?_
  rw [List.mem_filter, List.mem_range, instr?_decode_isSome_iff, List.mem_map]
  constructor
  · rintro ⟨hn, i, hi⟩
    exact ⟨i, mem_allInstrs i, by rw [← hi, BitVec.toNat_ofNat, Nat.mod_eq_of_lt hn]⟩
  · rintro ⟨i, -, rfl⟩
    exact ⟨(encode i).isLt, i, by rw [BitVec.ofNat_toNat, BitVec.setWidth_eq]⟩

theorem countP_isNone_of_countP_isSome {α β : Type} {f : α → Option β} {xs : List α} {m n : Nat}
    (some : xs.countP (fun x => (f x).isSome) = m) (length : xs.length = m + n) :
    xs.countP (fun x => (f x).isNone) = n := by
  have total := List.length_eq_countP_add_countP (fun x => (f x).isSome) (l := xs)
  simp only [some, length, Bool.not_eq_true, Bool.decide_eq_false, Option.not_isSome] at total
  exact (Nat.add_left_cancel total).symm

/-- Settles O3: the legal words are those of the 775 commands, and the others are the rest. -/
theorem legalWordsAre775 : Obligations.LegalWordsAre775 := by
  have legal : (List.range 65536).countP (fun n => (decode (BitVec.ofNat 16 n)).instr?.isSome) = 775 := by
    rw [List.countP_eq_length_filter, legalWords_perm.length_eq, List.length_map, allInstrs_length]
  exact ⟨legal, countP_isNone_of_countP_isSome legal List.length_range⟩

/-- Settles O4. -/
theorem sampleWordsDecode : Obligations.SampleWordsDecode := by
  unfold Obligations.SampleWordsDecode
  decide

end Sys2Proof
end

section
/-! The assembler of single commands (spec/30_encoding.md R75): what it makes of a command's own line, and which lines it
rejects. -/

namespace Sys2Proof

theorem Mnemonic.arity_of_noOperand : ∀ m ∈ [Mnemonic.crcInit, .crcRstd, .crcRvnd, .frmClear, .frmEncode, .frmValidate,
    .frmClassify], m.arity = (0, some 0) := by decide

theorem Mnemonic.arity_of_oneOperand : ∀ m ∈ [Mnemonic.crcFeed, .frmPush, .frmRead], m.arity = (1, some 1) := by decide

/-- A line is well formed when the mnemonic takes so many operands, all of them bytes. -/
theorem Source.wf_iff {m : Mnemonic} {ns : List Nat} : ({ mnemonic := m, operands := ns } : Source).wf = true ↔
    m.arity.1 ≤ ns.length ∧ (∀ most ∈ m.arity.2, ns.length ≤ most) ∧ ∀ n ∈ ns, n ≤ 255 := by
  have noneExtra : ({ mnemonic := m, operands := ns } : Source).noneExtra = true ↔
      ∀ most ∈ m.arity.2, ns.length ≤ most := by
    unfold Source.noneExtra
    cases m.arity.2 <;> simp
  simp only [Source.wf, Bool.and_eq_true, noneExtra, Source.enough, Source.inRange, decide_eq_true_eq, List.all_eq_true,
    and_assoc]

end Sys2Proof

namespace Sys2Proof.Machine

/-! The characters of a line. -/

/-- A character that ends no word and starts no comment. -/
abbrev IsPlain (c : Char) : Prop := isBlank c = false ∧ c ≠ ',' ∧ c ≠ ';'

theorem mnemonicText_plain (m : Mnemonic) : ∀ c ∈ mnemonicText m, IsPlain c := by
  have all : (mnemonicText m).all (fun c => decide (IsPlain c)) = true := by cases m <;> decide
  exact fun c hc => of_decide_eq_true (List.all_eq_true.mp all c hc)

theorem mnemonicText_ne_nil (m : Mnemonic) : mnemonicText m ≠ [] := by cases m <;> decide

theorem find?_mnemonicText (m : Mnemonic) : allMnemonics.find? (mnemonicText · == mnemonicText m) = some m := by
  cases m <;> decide

theorem hexDigit_plain : ∀ n < 16, IsPlain (hexDigit n) := by decide

theorem digit?_hexDigit : ∀ n < 16, digit? 16 (hexDigit n) = some n := by decide

section
variable (b : Byte)

theorem byte_high_lt : b.toNat / 16 < 16 := by omega

theorem byte_low_lt : b.toNat % 16 < 16 := by omega

theorem byteText_plain : ∀ c ∈ byteText b, IsPlain c := by
  simp only [byteText, List.forall_mem_cons]
  exact ⟨by decide, by decide, hexDigit_plain _ (byte_high_lt b), hexDigit_plain _ (byte_low_lt b),
    List.forall_mem_nil _⟩

/-- The two digits give the byte back. -/
theorem number?_byteText : number? (byteText b) = some b.toNat := by
  have digits : number? (byteText b) = digits? 16 0 [hexDigit (b.toNat / 16), hexDigit (b.toNat % 16)] := rfl
  rw [digits, digits?, digit?_hexDigit _ (byte_high_lt b)]
  simp only [digits?, digit?_hexDigit _ (byte_low_lt b)]
  congr 1
  omega

end

/-! Blanks, commas and comments. -/

theorem dropWhile_isBlank_eq_self {cs : List Char} (h : ∀ c ∈ cs.head?, isBlank c = false) :
    cs.dropWhile isBlank = cs := by
  cases cs with
  | nil => rfl
  | cons c cs => rw [List.dropWhile_cons, h c rfl]; rfl

/-- Text without a blank at either end is left as it is. -/
theorem trimBlanks_eq_self {cs : List Char} (first : ∀ c ∈ cs.head?, isBlank c = false)
    (last : ∀ c ∈ cs.getLast?, isBlank c = false) : trimBlanks cs = cs := by
  rw [trimBlanks, dropWhile_isBlank_eq_self first, dropWhile_isBlank_eq_self (by rwa [List.head?_reverse]),
    List.reverse_reverse]

theorem trimBlanks_of_plain {cs : List Char} (h : ∀ c ∈ cs, IsPlain c) : trimBlanks cs = cs :=
  trimBlanks_eq_self (fun c hc => (h c (List.mem_of_mem_head? hc)).1) fun c hc => (h c (List.mem_of_mem_getLast? hc)).1

theorem trimBlanks_space (cs : List Char) : trimBlanks (' ' :: cs) = trimBlanks cs := rfl

theorem splitCommas_eq_singleton {cs : List Char} (h : ∀ c ∈ cs, c ≠ ',') : splitCommas cs = [cs] := by
  induction cs with
  | nil => rfl
  | cons c cs ih =>
    rw [splitCommas, ih fun d hd => h d (.tail c hd)]
    simp [h c (.head cs)]

/-- One operand written as a byte. -/
theorem operands?_byteText (b : Byte) : operands? (' ' :: byteText b) = some [b.toNat] := by
  have trimmed : trimBlanks (' ' :: byteText b) = byteText b := by
    rw [trimBlanks_space, trimBlanks_of_plain (byteText_plain b)]
  have oneOperand : splitCommas (' ' :: byteText b) = [' ' :: byteText b] :=
    splitCommas_eq_singleton (List.forall_mem_cons.mpr ⟨by decide, fun c hc => (byteText_plain b c hc).2.1⟩)
  have nonempty : (byteText b).isEmpty = false := rfl
  rw [operands?, trimmed, nonempty, oneOperand]
  simp only [numbers?, trimmed, number?_byteText]
  rfl

/-- What stands before a comment, or before the end of the line, is the line's text. -/
theorem dropComment_append {cs tail : List Char} (h : ∀ c ∈ cs, c ≠ ';') (comment : dropComment tail = []) :
    dropComment (cs ++ tail) = cs := by
  rw [dropComment, List.takeWhile_append_of_pos (by simpa using h)]
  exact (congrArg (cs ++ ·) comment).trans cs.append_nil

/-! A line of a mnemonic and its operands. -/

/-- The mnemonic ends where the text behind it begins with a blank, or where the line ends. -/
theorem span_mnemonicText (m : Mnemonic) {args : List Char} (sep : args.takeWhile (fun c => !isBlank c) = []) :
    (mnemonicText m ++ args).takeWhile (fun c => !isBlank c) = mnemonicText m ∧
      (mnemonicText m ++ args).dropWhile (fun c => !isBlank c) = args := by
  have word : ∀ c ∈ mnemonicText m, (!isBlank c) = true := fun c hc => by rw [(mnemonicText_plain m c hc).1]; rfl
  have rest := args.takeWhile_append_dropWhile (p := fun c => !isBlank c)
  rw [sep, List.nil_append] at rest
  exact ⟨by rw [List.takeWhile_append_of_pos word, sep, List.append_nil],
    by rw [List.dropWhile_append_of_pos word, rest]⟩

theorem assembleLine_of_text {line args : List Char} {m : Mnemonic} {ns : List Nat}
    (text : trimBlanks (dropComment line) = mnemonicText m ++ args)
    (sep : args.takeWhile (fun c => !isBlank c) = []) (operands : operands? args = some ns) :
    assembleLine line = assembleSource { mnemonic := m, operands := ns } := by
  obtain ⟨word, rest⟩ := span_mnemonicText m sep
  have nonempty : (mnemonicText m ++ args).isEmpty = false := by simp [mnemonicText_ne_nil]
  simp only [assembleLine, text, nonempty, word, rest, find?_mnemonicText, operands]
  rfl

theorem assembleLine_mnemonic (m : Mnemonic) {tail : List Char} (comment : dropComment tail = []) :
    assembleLine (mnemonicText m ++ tail) = assembleSource { mnemonic := m, operands := [] } := by
  have plain := mnemonicText_plain m
  refine assembleLine_of_text (args := []) ?_ rfl rfl
  rw [dropComment_append (fun c hc => (plain c hc).2.2) comment, trimBlanks_of_plain plain, List.append_nil]

theorem assembleLine_mnemonic_byte (m : Mnemonic) (b : Byte) {tail : List Char} (comment : dropComment tail = []) :
    assembleLine ((mnemonicText m ++ ' ' :: byteText b) ++ tail) =
      assembleSource { mnemonic := m, operands := [b.toNat] } := by
  have word := mnemonicText_plain m
  have byte := byteText_plain b
  refine assembleLine_of_text ?_ rfl (operands?_byteText b)
  have noComment : ∀ c ∈ mnemonicText m ++ ' ' :: byteText b, c ≠ ';' :=
    List.forall_mem_append.mpr ⟨fun c hc => (word c hc).2.2,
      List.forall_mem_cons.mpr ⟨by decide, fun c hc => (byte c hc).2.2⟩⟩
  rw [dropComment_append noComment comment]
  refine trimBlanks_eq_self (fun c hc => ?_) fun c hc => ?_
  · rw [List.head?_append_of_ne_nil _ (mnemonicText_ne_nil m)] at hc
    exact (word c (List.mem_of_mem_head? hc)).1
  · rw [List.getLast?_append_cons] at hc
    exact (byte c (List.mem_of_mem_getLast? hc)).1

/-! The checked line (R75). -/

theorem assembleSource_of_wf {l : Source} (h : l.wf = true) :
    assembleSource l = .ok (expand l.mnemonic (l.operands.map (BitVec.ofNat 8))) := if_pos h

theorem assembleSource_of_not_wf {l : Source} (h : l.wf = false) : assembleSource l = .error (.illFormed l) :=
  if_neg (by rw [h]; decide)

/-- A byte is an operand of each command that takes one, and comes back as that byte. -/
theorem assembleSource_byte {m : Mnemonic} (b : Byte) (takesOne : m.arity = (1, some 1)) :
    assembleSource { mnemonic := m, operands := [b.toNat] } = .ok (expand m [b]) := by
  have wf : ({ mnemonic := m, operands := [b.toNat] } : Source).wf = true := by
    rw [Source.wf_iff, takesOne]
    simpa using Nat.le_of_lt_succ b.isLt
  rw [assembleSource_of_wf wf, List.map_singleton, BitVec.ofNat_toNat, BitVec.setWidth_eq]

/-- A command's line: its mnemonic, or its mnemonic and its operand. -/
theorem lineOf_cases (i : Instr) :
    (∃ m, lineOf i = mnemonicText m ∧ assembleSource { mnemonic := m, operands := [] } = .ok [i]) ∨
      ∃ m b, lineOf i = mnemonicText m ++ ' ' :: byteText b ∧
        assembleSource { mnemonic := m, operands := [b.toNat] } = .ok [i] := by
  cases i with
  | crcFeed b => exact .inr ⟨.crcFeed, b, rfl, assembleSource_byte b rfl⟩
  | frmPush b => exact .inr ⟨.frmPush, b, rfl, assembleSource_byte b rfl⟩
  | frmRead k => exact .inr ⟨.frmRead, k, rfl, assembleSource_byte k rfl⟩
  | crcInit => exact .inl ⟨.crcInit, rfl, rfl⟩
  | crcRstd => exact .inl ⟨.crcRstd, rfl, rfl⟩
  | crcRvnd => exact .inl ⟨.crcRvnd, rfl, rfl⟩
  | frmClear => exact .inl ⟨.frmClear, rfl, rfl⟩
  | frmEncode => exact .inl ⟨.frmEncode, rfl, rfl⟩
  | frmValidate => exact .inl ⟨.frmValidate, rfl, rfl⟩
  | frmClassify => exact .inl ⟨.frmClassify, rfl, rfl⟩

theorem assembleLine_lineOf (i : Instr) {tail : List Char} (comment : dropComment tail = []) :
    assembleLine (lineOf i ++ tail) = .ok [i] := by
  rcases lineOf_cases i with ⟨m, line, source⟩ | ⟨m, b, line, source⟩
  · rw [line, assembleLine_mnemonic m comment, source]
  · rw [line, assembleLine_mnemonic_byte m b comment, source]

/-- A line that is not well formed is rejected. -/
theorem assembleSource_rejects {m : Mnemonic} {ns : List Nat}
    (h : ¬ (m.arity.1 ≤ ns.length ∧ (∀ most ∈ m.arity.2, ns.length ≤ most) ∧ ∀ n ∈ ns, n ≤ 255)) :
    assembleSource { mnemonic := m, operands := ns } = .error (.illFormed { mnemonic := m, operands := ns }) :=
  assembleSource_of_not_wf (Bool.eq_false_iff.mpr fun wf => h (Source.wf_iff.mp wf))

/-- Settles O5: a command's line is read back word by word, and each rejected line misses a part of `Source.wf_iff`. -/
theorem assemblerReadsBackEveryCommand : Obligations.AssemblerReadsBackEveryCommand := by
  refine ⟨fun i => ?_, fun i note => assembleLine_lineOf i rfl, ?_, ?_, ?_⟩
  · have line := assembleLine_lineOf i (tail := []) rfl
    rwa [List.append_nil] at line
  · rintro m ns ⟨n, hn, big⟩
    exact assembleSource_rejects fun ⟨_, _, inRange⟩ => absurd (inRange n hn) (Nat.not_le.mpr big)
  · intro m hm ns nonempty
    refine assembleSource_rejects fun ⟨_, noneExtra, _⟩ => ?_
    rw [Mnemonic.arity_of_noOperand m hm] at noneExtra
    exact nonempty (List.length_eq_zero_iff.mp (Nat.le_zero.mp (noneExtra 0 rfl)))
  · intro m hm ns notOne
    refine assembleSource_rejects fun ⟨enough, noneExtra, _⟩ => ?_
    rw [Mnemonic.arity_of_oneOperand m hm] at enough noneExtra
    exact notOne (Nat.le_antisymm (noneExtra 1 rfl) enough)

end Sys2Proof.Machine
end

section
/-! The pseudo-instructions (spec/30_encoding.md R76) as runs of the commands they stand for. -/

namespace Sys2Proof.Machine

/-- A command that completes: it has its effect, and the run goes on with the commands behind it. -/
theorem Completes.runFor_issue {s u : State} {i : Instr} (h : Completes s i u) (hs : s.Sound) (is : List Instr) :
    (u.setErr 0#4).Sound ∧
      runFor (i :: is).length (s.issue (i :: is)) = runFor is.length ((u.setErr 0#4).issue is) := by
  have command : exec i s = .next (u.setErr 0#4) := h.exec_eq
  exact ⟨exec_sound hs command, runFor_succ_of_next (step_encode (s := s.issue (i :: is)) _ hs rfl command)⟩

/-- The state after FRM_CLEAR and pushes of `bs`. -/
def State.loaded (s : State) (bs : List Byte) : State := (s.replaceBuf bs).setErr 0#4

theorem runFor_pushes {s : State} {pre : List Byte} (bs : List Byte) (is : List Instr) (hs : (s.loaded pre).Sound)
    (fits : pre.length + bs.length ≤ s.params.maxFrame) :
    (s.loaded (pre ++ bs)).Sound ∧
      runFor (bs.map Instr.frmPush ++ is).length ((s.loaded pre).issue (bs.map Instr.frmPush ++ is)) =
        runFor is.length ((s.loaded (pre ++ bs)).issue is) := by
  induction bs generalizing pre with
  | nil => exact ⟨by rwa [List.append_nil], by rw [List.append_nil]; rfl⟩
  | cons b bs ih =>
    rw [List.length_cons] at fits
    have room : pre.length ≠ s.params.maxFrame := by omega
    obtain ⟨sound, first⟩ := (Completes.frmPush (s := s.loaded pre) b room).runFor_issue hs (bs.map Instr.frmPush ++ is)
    obtain ⟨sound', rest⟩ := ih (pre := pre ++ [b]) sound (by rw [List.length_append, List.length_singleton]; omega)
    rw [List.append_assoc] at sound' rest
    exact ⟨sound', first.trans rest⟩

/-- FRM_LOAD puts its bytes in the buffer, and the run goes on behind it. -/
theorem runFor_frmLoad {s : State} (hs : s.Sound) {bs : List Byte} (is : List Instr)
    (fits : bs.length ≤ s.params.maxFrame) :
    (s.loaded bs).Sound ∧
      runFor (frmLoad bs ++ is).length (s.issue (frmLoad bs ++ is)) = runFor is.length ((s.loaded bs).issue is) := by
  obtain ⟨sound, clear⟩ := Completes.frmClear.runFor_issue hs (bs.map Instr.frmPush ++ is)
  obtain ⟨sound', pushes⟩ := runFor_pushes (pre := []) bs is sound (by simpa using fits)
  exact ⟨sound', clear.trans pushes⟩

/-- Settles O53. -/
theorem frmLoadLoadsTheFrame : Obligations.FrmLoadLoadsTheFrame := by
  intro s bs hs fits
  obtain ⟨-, load⟩ := runFor_frmLoad hs [] fits
  rw [List.append_nil] at load
  exact ⟨_, load, rfl, rfl, rfl, rfl, rfl⟩

/-- FRM_ENCODE builds the frame that encodeFrame gives (R123, R128). -/
theorem encodedState_buf_eq {s : State} {a f : Byte} {p : List Byte} (hb : s.buf = a :: f :: p) :
    some (encodedState s f).buf = encodeFrame s.params.excDialect (a :: f :: p) := by
  rw [encodedState_buf, State.len, hb, encodeFrame]

/-- Settles O55: FRM_LOAD leaves the body, which FRM_ENCODE completes. -/
theorem encodeRequestBuildsTheFrame : Obligations.EncodeRequestBuildsTheFrame := by
  intro s a f p hs low high fits
  obtain ⟨sound, load⟩ := runFor_frmLoad hs (bs := a :: f :: p) [.frmEncode] (by simp only [List.length_cons]; omega)
  obtain ⟨-, encode⟩ := (Completes.frmEncode (s := s.loaded (a :: f :: p)) rfl ⟨low, high⟩ fits).runFor_issue sound []
  exact ⟨_, load.trans encode, encodedState_buf_eq (s := s.loaded (a :: f :: p)) rfl, rfl, rfl⟩

theorem runFor_feeds {s : State} {c : Word} (bs : List Byte) (hs : ((s.setCrc c).setErr 0#4).Sound) :
    runFor (bs.map Instr.crcFeed).length (((s.setCrc c).setErr 0#4).issue (bs.map .crcFeed)) =
      .next (((s.setCrc (crcFrom c bs)).setErr 0#4).issue []) := by
  induction bs generalizing c with
  | nil => rfl
  | cons b bs ih =>
    obtain ⟨sound, first⟩ := (Completes.crcFeed (s := (s.setCrc c).setErr 0#4) b).runFor_issue hs (bs.map .crcFeed)
    exact first.trans (ih sound)

/-- Settles O54. -/
theorem crcOverComputesTheChecksum : Obligations.CrcOverComputesTheChecksum := by
  intro s bs hs
  obtain ⟨sound, init⟩ := Completes.crcInit.runFor_issue hs (bs.map .crcFeed)
  exact ⟨_, init.trans (runFor_feeds bs sound), rfl, rfl⟩

/-- FRM_CLASSIFY always completes; EXC then tells whether the frame has an exception code. -/
theorem exists_completes_classify (s : State) :
    ∃ u, Completes s .frmClassify u ∧ u.status.exc = (excCode? s.buf).isSome ∧ u.buf = s.buf := by
  cases h : excCode? s.buf with
  | none => exact ⟨_, .classifyOther h, rfl, rfl⟩
  | some code => exact ⟨_, .classifyException h, rfl, rfl⟩

theorem validateFrame_of_short {fr : List Byte} (h : fr.length < 4) (x : ExcDialect) : validateFrame x fr = false := by
  rw [validateFrame, (frameFunction?_eq_none_iff fr).mpr h]

/-- FRM_VALIDATE always completes; VALID then tells whether the frame validates. -/
theorem exists_completes_validate (s : State) :
    ∃ u, Completes s .frmValidate u ∧ u.status.valid = validateFrame s.params.excDialect s.buf ∧
      u.status.exc = s.status.exc ∧ u.buf = s.buf := by
  rcases execFrmValidate_cases s with ⟨short, -⟩ | ⟨f, long, hf, -⟩
  · exact ⟨_, .validateShort short, (validateFrame_of_short short _).symm, rfl, rfl⟩
  · exact ⟨_, .validateLong long hf, rfl, rfl, rfl⟩

/-- A frame has an exception code exactly where it is exception-shaped (R150): five bytes have one at index 2. -/
theorem excCode?_isSome_iff (fr : List Byte) :
    (excCode? fr).isSome ↔ fr.length = 5 ∧ ∃ f, fr[1]? = some f ∧ f.getLsbD 7 = true := by
  simp only [Option.isSome_iff_exists, excCode?_eq_some_iff]
  constructor
  · rintro ⟨code, length, function, -⟩
    exact ⟨length, function⟩
  · rintro ⟨length, function⟩
    exact ⟨fr[2], length, function, List.getElem?_eq_getElem _⟩

/-- Settles O56: FRM_VALIDATE leaves EXC and the buffer as FRM_CLASSIFY left them. -/
theorem checkReportsBothTests : Obligations.CheckReportsBothTests := by
  intro s hs
  obtain ⟨u, hu, exc, buf⟩ := exists_completes_classify s
  obtain ⟨v, hv, valid, exc', buf'⟩ := exists_completes_validate (u.setErr 0#4)
  obtain ⟨sound, classify⟩ := hu.runFor_issue hs [.frmValidate]
  obtain ⟨-, validate⟩ := hv.runFor_issue sound []
  refine ⟨_, classify.trans validate, ?_, ?_, buf'.trans buf⟩
  · change v.status.valid = _
    rw [valid, State.setErr_params, State.setErr_buf, hu.params, buf]
  · change v.status.exc = true ↔ _
    rw [exc', State.setErr_exc, exc, excCode?_isSome_iff]

end Sys2Proof.Machine
end

section
/-! The CRC engine's functions (spec/40_crc.md R100 to R105): the bit step on numbers, and what makes the engine linear
and its table exact (R101, R111). -/

namespace Sys2Proof.Machine

/-! The bit step. -/

theorem crcBit_of_odd {c : Word} (h : c.getLsbD 0 = true) : crcBit c = (c >>> 1) ^^^ crcPoly := if_pos h

theorem crcBit_of_even {c : Word} (h : c.getLsbD 0 = false) : crcBit c = c >>> 1 :=
  if_neg (Bool.eq_false_iff.mp h)

/-- Settles O13, by the parity of the value. -/
theorem crcBitStep : Obligations.CrcBitStep := by
  refine ⟨fun c => ?_, by decide, by decide, by decide, by decide⟩
  have low : c.getLsbD 0 = decide (c.toNat % 2 = 1) := Nat.testBit_zero c.toNat
  have half : (c >>> 1).toNat = c.toNat / 2 := by
    rw [BitVec.toNat_ushiftRight, Nat.shiftRight_eq_div_pow, pow_one]
  split_ifs with odd
  · rw [crcBit_of_odd (low.trans (decide_eq_true odd)), BitVec.toNat_xor, half]
    rfl
  · rw [crcBit_of_even (low.trans (decide_eq_false odd)), half]

/-- The bit step as a shift and a constant that the low bit switches: both are linear. -/
theorem crcBit_eq_xor (c : Word) : crcBit c = (c >>> 1) ^^^ (if c.getLsbD 0 then crcPoly else 0#16) := by
  cases low : c.getLsbD 0 with
  | true => exact crcBit_of_odd low
  | false => simp [crcBit_of_even low]

theorem crcBit_xor (a b : Word) : crcBit (a ^^^ b) = crcBit a ^^^ crcBit b := by
  have switch : (if (a ^^^ b).getLsbD 0 then crcPoly else 0#16) =
      (if a.getLsbD 0 then crcPoly else 0#16) ^^^ (if b.getLsbD 0 then crcPoly else 0#16) := by
    rw [BitVec.getLsbD_xor]
    cases a.getLsbD 0 <;> cases b.getLsbD 0 <;> decide
  simp only [crcBit_eq_xor, switch, BitVec.ushiftRight_xor_distrib]
  ac_rfl

/-- The polynomial's top bit marks the result of a step that dropped a 1: nothing is lost. -/
theorem crcBit_getLsbD_top (c : Word) : (crcBit c).getLsbD 15 = c.getLsbD 0 := by
  cases low : c.getLsbD 0 with
  | true => simp [crcBit_of_odd low, crcPoly]
  | false => simp [crcBit_of_even low]

theorem crcBit_eq_zero_iff (c : Word) : crcBit c = 0#16 ↔ c = 0#16 := by
  constructor
  · intro h
    have low : c.getLsbD 0 = false := by rw [← crcBit_getLsbD_top, h]; decide
    have shifted : c >>> 1 = 0#16 := crcBit_of_even low ▸ h
    refine BitVec.eq_of_getLsbD_eq fun i _ => ?_
    cases i with
    | zero => exact low
    | succ i => simpa [Nat.add_comm] using congrArg (·.getLsbD i) shifted
  · rintro rfl
    decide

/-! Several bit steps. -/

theorem crcBits_eq_iterate (n : Nat) (c : Word) : crcBits n c = crcBit^[n] c := by
  induction n generalizing c with
  | zero => rfl
  | succ n ih => exact ih (crcBit c)

/-- Settles O14. -/
theorem crcByteStepIsEightBitSteps : Obligations.CrcByteStepIsEightBitSteps :=
  fun c b => crcBits_eq_iterate 8 (c ^^^ zext16 b)

theorem crcBits_xor (n : Nat) (a b : Word) : crcBits n (a ^^^ b) = crcBits n a ^^^ crcBits n b := by
  induction n generalizing a b with
  | zero => rfl
  | succ n ih => simp only [crcBits, crcBit_xor, ih]

theorem crcBits_eq_zero_iff (n : Nat) (c : Word) : crcBits n c = 0#16 ↔ c = 0#16 := by
  induction n generalizing c with
  | zero => rfl
  | succ n ih => rw [crcBits, ih, crcBit_eq_zero_iff]

/-- Zero bits are shifted out with nothing XORed in. -/
theorem crcBits_of_low_zero {n : Nat} {c : Word} (low : ∀ i < n, c.getLsbD i = false) : crcBits n c = c >>> n := by
  induction n generalizing c with
  | zero => exact (BitVec.ushiftRight_zero c).symm
  | succ n ih =>
    have low' : ∀ i < n, (c >>> 1).getLsbD i = false := fun i hi => by
      rw [BitVec.getLsbD_ushiftRight]
      exact low (1 + i) (by omega)
    rw [crcBits, crcBit_of_even (low 0 (Nat.succ_pos n)), ih low', Nat.add_comm, BitVec.shiftRight_add]

/-! The byte step and the fold. -/

theorem zext16_xor (a b : Byte) : zext16 (a ^^^ b) = zext16 a ^^^ zext16 b := BitVec.setWidth_xor

theorem crcStep8_xor (a b : Word) (x y : Byte) : crcStep8 (a ^^^ b) (x ^^^ y) = crcStep8 a x ^^^ crcStep8 b y := by
  rw [crcStep8, crcStep8, crcStep8, ← crcBits_xor, zext16_xor]
  ac_rfl

theorem crcStep8_eq_zero_iff (c : Word) (b : Byte) : crcStep8 c b = 0#16 ↔ c = zext16 b := by
  rw [crcStep8, crcBits_eq_zero_iff, BitVec.xor_eq_zero_iff]

/-- Settles O15. -/
theorem checksumFoldsBytes : Obligations.ChecksumFoldsBytes :=
  ⟨rfl, fun bs b => crcFrom_append crcInitial bs [b], by decide +kernel⟩

/-- Settles O24. -/
theorem catalogueCheckValue : Obligations.CatalogueCheckValue := by
  unfold Obligations.CatalogueCheckValue
  decide +kernel

/-- Fed its own low byte, a running value has nothing left there to XOR the polynomial in for. -/
theorem crcStep8_low_byte (c : Word) : crcStep8 c (c.setWidth 8) = c >>> 8 := by
  have low : ∀ i < 8, (c ^^^ zext16 (c.setWidth 8)).getLsbD i = false := fun i hi => by
    simp [zext16, hi, Nat.lt_trans hi (by decide : 8 < 16)]
  rw [crcStep8, crcBits_of_low_zero low]
  ext i hi
  simp [zext16]

/-- The high byte moves down; the low byte meets the new byte in a step from zero, which a table can hold. -/
theorem crcStep8_eq_lookup (c : Word) (b : Byte) :
    crcStep8 c b = (c >>> 8) ^^^ crcStep8 0x0000#16 (c.setWidth 8 ^^^ b) := by
  have linear := crcStep8_xor c 0x0000#16 (c.setWidth 8) (c.setWidth 8 ^^^ b)
  rwa [BitVec.xor_zero, ← BitVec.xor_assoc, BitVec.xor_self, BitVec.zero_xor, crcStep8_low_byte] at linear

/-- Settles O16: entry `n` of the table is the byte step of `n` from zero. -/
theorem tableDrivenEngineIsEquivalent : Obligations.TableDrivenEngineIsEquivalent := by
  unfold Obligations.TableDrivenEngineIsEquivalent
  intro table bs c
  have entry (n : Byte) : table.getD n.toNat 0x0000#16 = crcStep8 0x0000#16 n := by
    simp [table, n.isLt]
  have step : crcStep8 = fun (r : Word) (b : Byte) =>
      (r >>> 8) ^^^ table.getD (r.setWidth 8 ^^^ b).toNat 0x0000#16 := by
    funext r b
    rw [entry, ← crcStep8_eq_lookup]
  rw [crcFrom, step]

theorem crcFrom_xor (a b : Word) {xs es : List Byte} (h : xs.length = es.length) :
    crcFrom (a ^^^ b) (List.zipWith (· ^^^ ·) xs es) = crcFrom a xs ^^^ crcFrom b es := by
  induction xs generalizing a b es with
  | nil =>
    cases List.length_eq_zero_iff.mp h.symm
    rfl
  | cons x xs ih =>
    obtain ⟨e, es, rfl⟩ := List.exists_cons_of_length_eq_add_one h.symm
    rw [List.zipWith_cons_cons, crcFrom_cons, crcStep8_xor, ih _ _ (Nat.succ.inj h), crcFrom_cons, crcFrom_cons]

theorem crcFrom_zeros_eq_zero_iff (c : Word) (n : Nat) : crcFrom c (List.replicate n 0x00#8) = 0#16 ↔ c = 0#16 := by
  induction n generalizing c with
  | zero => rfl
  | succ n ih => rw [List.replicate_succ, crcFrom_cons, ih, crcStep8_eq_zero_iff]; rfl

@[simp] theorem flipBit_cons_zero (b : Byte) (bs : List Byte) (k : Nat) :
    flipBit (b :: bs) 0 k = (b ^^^ (1#8 <<< k)) :: bs := rfl

@[simp] theorem flipBit_cons_succ (b : Byte) (bs : List Byte) (i k : Nat) :
    flipBit (b :: bs) (i + 1) k = b :: flipBit bs i k := rfl

/-- Zero bytes leave the running value 0; the byte with the bit set makes it nonzero, and so it stays. -/
theorem crc0_flipBit_zeros_ne_zero {n i k : Nat} (hi : i < n) (hk : k < 8) :
    crc0 (flipBit (List.replicate n 0x00#8) i k) ≠ 0x0000#16 := by
  obtain ⟨n, rfl⟩ := Nat.exists_eq_succ_of_ne_zero (Nat.ne_zero_of_lt hi)
  induction i generalizing n with
  | zero =>
    have bit : ∀ k < 8, 0#16 ≠ zext16 (0x00#8 ^^^ (1#8 <<< k)) := by decide
    rw [List.replicate_succ, flipBit_cons_zero, crc0, crcFrom_cons, ne_eq, crcFrom_zeros_eq_zero_iff,
      crcStep8_eq_zero_iff]
    exact bit k hk
  | succ i ih =>
    have hi := Nat.lt_of_succ_lt_succ hi
    obtain ⟨n, rfl⟩ := Nat.exists_eq_succ_of_ne_zero (Nat.ne_zero_of_lt hi)
    have fixed : crcStep8 0x0000#16 0x00#8 = 0x0000#16 := (crcStep8_eq_zero_iff _ _).mpr rfl
    rw [List.replicate_succ, flipBit_cons_succ, crc0, crcFrom_cons, fixed]
    exact ih n hi

/-- Settles O17: the fold is linear, and no nonzero running value becomes 0 under zero bytes. -/
theorem checksumIsLinear : Obligations.ChecksumIsLinear := by
  refine ⟨crcBit_xor, fun xs es h => ?_, fun n i k hi hk => crc0_flipBit_zeros_ne_zero hi hk⟩
  have fold := crcFrom_xor crcInitial 0x0000#16 h
  rwa [BitVec.xor_zero] at fold

/-! The renderings. -/

theorem highByte_toNat (c : Word) : (highByte c).toNat = c.toNat / 256 := by
  have hc := c.isLt
  rw [highByte, BitVec.extractLsb'_toNat, Nat.shiftRight_eq_div_pow]
  omega

theorem lowByte_toNat (c : Word) : (lowByte c).toNat = c.toNat % 256 := by
  rw [lowByte, BitVec.extractLsb'_toNat, Nat.shiftRight_zero]

theorem packOut_render_vendor (c : Word) : packOut (render .vendor c) = c := by
  rw [packOut_eq_append, render_vendor, highByte_append_lowByte]

theorem packOut_render_standard (c : Word) : packOut (render .standard c) = lowByte c ++ highByte c :=
  packOut_eq_append _

/-- Settles O18, by the numbers of the two bytes of a checksum. -/
theorem renderingsAndTheirPacking : Obligations.RenderingsAndTheirPacking := by
  intro c
  have packed : (packOut (render .standard c)).toNat = c.toNat % 256 * 256 + c.toNat / 256 := by
    rw [packOut_render_standard, append_toNat, lowByte_toNat, highByte_toNat]
  exact ⟨highByte_toNat c, lowByte_toNat c, lowByte_toNat c, highByte_toNat c, rfl, rfl, packOut_render_vendor c,
    packed⟩

end Sys2Proof.Machine
end

section
/-! The CRC engine's commands (spec/40_crc.md R106 to R109), one by one and in a stream (R110). -/

namespace Sys2Proof.Machine

/-- Settles O19. -/
theorem crcInitResult : Obligations.CrcInitResult := ⟨rfl, fun _ => Completes.crcInit.exec_eq⟩

/-- Settles O20. -/
theorem crcFeedResult : Obligations.CrcFeedResult :=
  ⟨fun _ => rfl, fun b _ => (Completes.crcFeed b).exec_eq, by decide, by decide, by decide +kernel, by decide⟩

/-- Settles O21. -/
theorem crcRstdResult : Obligations.CrcRstdResult := by
  refine ⟨rfl, fun s => Completes.crcRstd.exec_eq.trans ?_⟩
  rw [complete_next, State.report, packOut_render_standard]
  rfl

/-- Settles O22. -/
theorem crcRvndResult : Obligations.CrcRvndResult := by
  refine ⟨rfl, fun s => Completes.crcRvnd.exec_eq.trans ?_⟩
  rw [complete_next, State.report, packOut_render_vendor]
  rfl

/-- No command leaves the machine without a next state (spec/60_exceptions.md R170). -/
theorem exists_exec_eq_next (i : Instr) (s : State) : ∃ t, exec i s = .next t := by
  rcases exec_completes_or_raises i s with ⟨u, h⟩ | ⟨e, h⟩
  · exact ⟨_, h⟩
  · exact ⟨_, h⟩

/-- A command that answers `t`, completing or not: the run goes on from `t` with the commands behind it. -/
theorem runFor_issue_of_exec {s t : State} {i : Instr} (h : exec i s = .next t) (hs : s.Sound) (is : List Instr) :
    runFor (i :: is).length (s.issue (i :: is)) = runFor is.length (t.issue is) :=
  runFor_succ_of_next (step_encode (s := s.issue (i :: is)) _ hs rfl h)

theorem fedBytes_cons (i : Instr) (is : List Instr) : fedBytes (i :: is) = fedBytes [i] ++ fedBytes is := by
  cases i <;> rfl

/-- Only CRC_FEED moves `CRC` between two CRC_INITs, by one byte step. -/
theorem exec_crc_eq_crcFrom {s t : State} {i : Instr} (h : exec i s = .next t) (hi : i ≠ .crcInit) :
    t.crc = crcFrom s.crc (fedBytes [i]) := by
  rcases exec_next_cases h with ⟨u, hu, rfl⟩ | ⟨e, hr, rfl⟩
  · cases hu with
    | crcInit => exact absurd rfl hi
    | _ => rfl
  · cases hr <;> rfl

theorem runFor_issue_crc {s : State} {is : List Instr} (hs : s.Sound) (noInit : ∀ i ∈ is, i ≠ .crcInit) :
    ∃ t, runFor is.length (s.issue is) = .next t ∧ t.crc = crcFrom s.crc (fedBytes is) := by
  induction is generalizing s with
  | nil => exact ⟨_, rfl, rfl⟩
  | cons i is ih =>
    obtain ⟨hi, his⟩ := List.forall_mem_cons.mp noInit
    obtain ⟨m, command⟩ := exists_exec_eq_next i s
    obtain ⟨t, run, crc⟩ := ih (exec_sound hs command) his
    refine ⟨t, (runFor_issue_of_exec command hs is).trans run, ?_⟩
    rw [crc, exec_crc_eq_crcFrom command hi, ← crcFrom_append, ← fedBytes_cons]

/-- Settles O23: CRC_INIT starts the fold that the commands behind it carry on. -/
theorem streamingEqualsBatch : Obligations.StreamingEqualsBatch := by
  intro s is hs noInit
  obtain ⟨sound, init⟩ := Completes.crcInit.runFor_issue hs is
  obtain ⟨t, run, crc⟩ := runFor_issue_crc sound noInit
  exact ⟨t, init.trans run, crc⟩

end Sys2Proof.Machine
end

section
/-! The frame codec's functions (spec/41_frame_codec.md R120 to R124, R130, R132): the dialect on numbers, what a frame is
made of, and when it validates. -/

namespace Sys2Proof.Machine

/-! The dialect (R120, R122). -/

theorem dialectOf_eq_vendor_iff (f : Byte) : dialectOf f = .vendor ↔ 16 < f.toNat := by
  unfold dialectOf
  split_ifs with above
  · exact iff_of_true rfl above
  · exact iff_of_false (by decide) above

theorem Dialect.eq_standard_iff (d : Dialect) : d = .standard ↔ d ≠ .vendor := by cases d <;> decide

/-- Settles O25, by the threshold's own comparison. -/
theorem dialectThreshold : Obligations.DialectThreshold := by
  refine ⟨dialectOf_eq_vendor_iff, fun f => ?_, fun f high => (dialectOf_eq_vendor_iff f).mpr (by omega), rfl, rfl⟩
  rw [Dialect.eq_standard_iff, ne_eq, dialectOf_eq_vendor_iff, not_lt]

theorem isExceptionShape_iff (n : Nat) (f : Byte) : isExceptionShape n f = true ↔ n = 5 ∧ 128 ≤ f.toNat := by
  have top : f.getLsbD 7 = decide (128 ≤ f.toNat) := f.msb_eq_decide
  rw [isExceptionShape, top, Bool.and_eq_true, decide_eq_true_eq, decide_eq_true_eq]

/-- The base function of an exception's function byte (R122). -/
theorem toNat_and_7F {f : Byte} (high : 128 ≤ f.toNat) : (f &&& 0x7F#8).toNat = f.toNat - 128 := by
  have low7 : (f &&& 0x7F#8).toNat = f.toNat % 2 ^ 7 := Nat.and_two_pow_sub_one_eq_mod f.toNat 7
  have := f.isLt
  omega

/-- Settles O26, by the exception shape. -/
theorem frameDialectByParameter : Obligations.FrameDialectByParameter := by
  refine fun n f => ⟨dialectOf_eq_vendor_iff f, ?_⟩
  simp only [frameDialect, isExceptionShape_iff]
  split_ifs with shape
  · rw [dialectOf_eq_vendor_iff, toNat_and_7F shape.2]
  · exact dialectOf_eq_vendor_iff f

/-! A frame as its body and two wire bytes (R123, R124). -/

@[simp] theorem bodyOf_append_wireBytes (body : List Byte) (r : Rendering) : bodyOf (body ++ wireBytes r) = body := by
  simp [bodyOf]

@[simp] theorem lastTwo_append_wireBytes (body : List Byte) (r : Rendering) :
    lastTwo (body ++ wireBytes r) = wireBytes r := by
  simp [lastTwo]

theorem bodyOf_append_lastTwo (fr : List Byte) : bodyOf fr ++ lastTwo fr = fr := List.take_append_drop _ _

theorem wireBytes_inj {r t : Rendering} : wireBytes r = wireBytes t ↔ r = t := by
  simp [wireBytes, Prod.ext_iff]

theorem encodeFrame_cons (x : ExcDialect) (a f : Byte) (p : List Byte) :
    encodeFrame x (a :: f :: p) =
      some (a :: f :: p ++ wireBytes (render (frameDialect x (p.length + 4) f) (checksum (a :: f :: p)))) := rfl

/-- Settles O27, by the dialect. -/
theorem encodeFrameAppendsTheChecksum : Obligations.EncodeFrameAppendsTheChecksum := by
  refine ⟨fun x a f p => ?_, fun x => ?_⟩
  · rw [encodeFrame_cons]
    cases frameDialect x (p.length + 4) f <;> rfl
  · cases x <;> decide +kernel

theorem frameFunction?_of_getElem? {fr : List Byte} {f : Byte} (long : 4 ≤ fr.length) (hf : fr[1]? = some f) :
    frameFunction? fr = some f := by
  cases h : frameFunction? fr with
  | none => exact absurd long (Nat.not_le.mpr ((frameFunction?_eq_none_iff fr).mp h))
  | some g => rw [← hf, (frameFunction?_eq_some h).2]

/-- Validation of a frame that has a checksum to compare (R124). -/
theorem validateFrame_eq_decide {fr : List Byte} {f : Byte} (x : ExcDialect) (long : 4 ≤ fr.length)
    (hf : fr[1]? = some f) : validateFrame x fr =
      decide (wireBytes (render (frameDialect x fr.length f) (checksum (bodyOf fr))) = lastTwo fr) := by
  rw [validateFrame, frameFunction?_of_getElem? long hf]

/-- A frame that validates is a body and its checksum, in one of the two orders. -/
theorem eq_append_of_validateFrame {x : ExcDialect} {fr : List Byte} (valid : validateFrame x fr = true) :
    ∃ body d, fr = body ++ wireBytes (render d (checksum body)) := by
  unfold validateFrame at valid
  split at valid
  · next f _ =>
    refine ⟨bodyOf fr, frameDialect x fr.length f, ?_⟩
    rw [of_decide_eq_true valid, bodyOf_append_lastTwo]
  · cases valid

/-- Encoding and validating go by one dialect: the lengths and the function bytes are the same. -/
theorem validateFrame_encodeFrame {x : ExcDialect} {body fr : List Byte} (h : encodeFrame x body = some fr) :
    validateFrame x fr = true := by
  unfold encodeFrame at h
  split at h
  · obtain rfl := Option.some.inj h
    rw [validateFrame_eq_decide x (by simp) (by rfl), bodyOf_append_wireBytes, lastTwo_append_wireBytes]
    simp
  · cases h

/-! Validation on numbers (R132). -/

/-- The two bytes of a rendering as one number, in the order of the dialect. -/
theorem render_eq_iff (d : Dialect) (c : Word) (r0 r1 : Byte) : render d c = (r0, r1) ↔
    (if d = .vendor then r0.toNat * 256 + r1.toNat else r0.toNat + r1.toNat * 256) = c.toNat := by
  have h0 := r0.isLt
  have h1 := r1.isLt
  have bytes (u v : Byte) : (u, v) = (r0, r1) ↔ u.toNat = r0.toNat ∧ v.toNat = r1.toNat := by
    rw [Prod.mk.injEq, BitVec.toNat_inj, BitVec.toNat_inj]
  cases d with
  | standard =>
    rw [render_standard, bytes, lowByte_toNat, highByte_toNat, if_neg (by decide)]
    omega
  | vendor =>
    rw [render_vendor, bytes, lowByte_toNat, highByte_toNat, if_pos rfl]
    omega

theorem lastTwo_eq_wireBytes {fr : List Byte} {r0 r1 : Byte} (long : 2 ≤ fr.length)
    (h0 : fr[fr.length - 2]? = some r0) (h1 : fr[fr.length - 1]? = some r1) : lastTwo fr = wireBytes (r0, r1) := by
  obtain ⟨i0, rfl⟩ := List.getElem?_eq_some_iff.mp h0
  obtain ⟨i1, rfl⟩ := List.getElem?_eq_some_iff.mp h1
  have next : fr.length - 2 + 1 = fr.length - 1 := by omega
  rw [lastTwo, List.drop_eq_getElem_cons i0, next, List.drop_eq_getElem_cons i1, List.drop_of_length_le (by omega)]
  rfl

/-- Settles O36: the compared bytes are a rendering, read as a number. -/
theorem validationAsNumbers : Obligations.ValidationAsNumbers := by
  intro x fr f r0 r1 long hf h0 h1
  rw [validateFrame_eq_decide x long hf, lastTwo_eq_wireBytes (by omega) h0 h1, decide_eq_true_eq, wireBytes_inj]
  exact render_eq_iff _ _ r0 r1

end Sys2Proof.Machine
end

section
/-! Why a single flipped bit is always seen (R131). The polynomial of the CRC has an odd number of bits set, so a bit step
keeps the parity of the running value, and the parity of a checksum is that of its body. A frame that validates therefore
has an even number of bits set, in whichever order its checksum stands; a flipped bit makes it odd. -/

namespace Sys2Proof.Machine

/-- The number of bits set, modulo 2. -/
def parity {w : Nat} (v : BitVec w) : ZMod 2 := ∑ i ∈ Finset.range w, if v.getLsbD i then 1 else 0

/-- The number of bits set in all bytes of a frame, modulo 2. -/
def frameParity (bs : List Byte) : ZMod 2 := (bs.map parity).sum

theorem frameParity_cons (b : Byte) (bs : List Byte) : frameParity (b :: bs) = parity b + frameParity bs := List.sum_cons

theorem frameParity_append (xs ys : List Byte) : frameParity (xs ++ ys) = frameParity xs + frameParity ys := by
  rw [frameParity, List.map_append, List.sum_append, frameParity, frameParity]

theorem parity_xor {w : Nat} (a b : BitVec w) : parity (a ^^^ b) = parity a + parity b := by
  rw [parity, parity, parity, ← Finset.sum_add_distrib]
  refine Finset.sum_congr rfl fun i _ => ?_
  rw [BitVec.getLsbD_xor]
  cases a.getLsbD i <;> cases b.getLsbD i <;> decide

theorem parity_append {m n : Nat} (a : BitVec m) (b : BitVec n) : parity (a ++ b) = parity a + parity b := by
  simp only [parity, BitVec.getLsbD_append]
  rw [Nat.add_comm m n, Finset.sum_range_add, add_comm]
  congr 1
  · exact Finset.sum_congr rfl fun i _ => by simp
  · exact Finset.sum_congr rfl fun i hi => by simp [Finset.mem_range.mp hi]

theorem parity_zext16 (b : Byte) : parity (zext16 b) = parity b := by
  have high : zext16 b = 0x00#8 ++ b := BitVec.setWidth_eq_append (by decide)
  have none : parity 0x00#8 = 0 := by decide
  rw [high, parity_append, none, zero_add]

/-- A shift by one loses bit 0 and no other. -/
theorem parity_shiftRight_one (c : Word) : parity (c >>> 1) + (if c.getLsbD 0 then 1 else 0) = parity c := by
  have top : c.getLsbD (1 + 15) = false := BitVec.getLsbD_of_ge c _ (by decide)
  rw [parity, parity, Finset.sum_range_succ, Finset.sum_range_succ' _ 15]
  simp only [BitVec.getLsbD_ushiftRight, top, add_comm 1, Bool.false_eq_true, if_false, add_zero]

theorem parity_crcPoly : parity crcPoly = 1 := by decide

/-- A step drops bit 0 and, where that was set, XORs three bits in. -/
theorem parity_crcBit (c : Word) : parity (crcBit c) = parity c := by
  rw [crcBit_eq_xor, parity_xor, ← parity_shiftRight_one c]
  cases c.getLsbD 0 with
  | true => exact congrArg _ parity_crcPoly
  | false => rfl

theorem parity_crcBits (n : Nat) (c : Word) : parity (crcBits n c) = parity c := by
  induction n generalizing c with
  | zero => rfl
  | succ n ih => rw [crcBits, ih, parity_crcBit]

theorem parity_crcFrom (c : Word) (bs : List Byte) : parity (crcFrom c bs) = parity c + frameParity bs := by
  induction bs generalizing c with
  | nil => exact (add_zero _).symm
  | cons b bs ih =>
    rw [crcFrom_cons, ih, crcStep8, parity_crcBits, parity_xor, parity_zext16, add_assoc, frameParity_cons]

theorem frameParity_render (d : Dialect) (c : Word) : frameParity (wireBytes (render d c)) = parity c := by
  rw [← highByte_append_lowByte c, parity_append]
  cases d <;> simp [frameParity, wireBytes, add_comm]

/-- The body and its checksum have the same parity, for 16 bits of the initial value are set. -/
theorem frameParity_of_validateFrame {x : ExcDialect} {fr : List Byte} (valid : validateFrame x fr = true) :
    frameParity fr = 0 := by
  obtain ⟨body, d, rfl⟩ := eq_append_of_validateFrame valid
  have even : parity crcInitial = 0 := by decide
  rw [frameParity_append, frameParity_render, checksum, parity_crcFrom, even, zero_add]
  exact CharTwo.add_self_eq_zero _

theorem frameParity_flipBit {fr : List Byte} {i k : Nat} (hi : i < fr.length) (hk : k < 8) :
    frameParity (flipBit fr i k) = frameParity fr + 1 := by
  have single : ∀ k < 8, parity (1#8 <<< k) = 1 := by decide
  induction fr generalizing i with
  | nil => cases hi
  | cons b fr ih =>
    cases i with
    | zero => rw [flipBit_cons_zero, frameParity_cons, frameParity_cons, parity_xor, single k hk, add_right_comm]
    | succ i => rw [flipBit_cons_succ, frameParity_cons, frameParity_cons, ih (Nat.lt_of_succ_lt_succ hi), add_assoc]

/-- Settles O35: the flipped bit makes the number of bits set odd. -/
theorem singleBitErrorsAreDetected : Obligations.SingleBitErrorsAreDetected := by
  intro x fr i k valid _ hi hk
  refine Bool.eq_false_iff.mpr fun flipped => ?_
  have odd := frameParity_flipBit hi hk
  rw [frameParity_of_validateFrame valid, frameParity_of_validateFrame flipped] at odd
  revert odd
  decide

end Sys2Proof.Machine
end

section
/-! The frame codec's commands (spec/41_frame_codec.md R125 to R129), and that they compute the functions of R123 and
R124. -/

namespace Sys2Proof.Machine

/-- Settles O28. -/
theorem frmClearResult : Obligations.FrmClearResult := ⟨rfl, fun _ => Completes.frmClear.exec_eq⟩

/-- Settles O29. -/
theorem frmPushResult : Obligations.FrmPushResult :=
  ⟨fun _ => rfl, fun b _ room => (Completes.frmPush b room).exec_eq, fun b _ full => (Raises.pushFull b full).exec_eq⟩

/-- Settles O30. -/
theorem frmReadResult : Obligations.FrmReadResult :=
  ⟨fun _ => rfl, fun _ _ held => (Completes.frmRead (List.getElem?_eq_getElem held)).exec_eq,
    fun _ _ past => (Raises.readPastEnd past).exec_eq, fun _ fits => (Raises.readPastEnd fits).exec_eq⟩

/-- Settles O31. -/
theorem frmEncodeResult : Obligations.FrmEncodeResult := by
  refine ⟨rfl, fun _ short => (Raises.encodeShort short).exec_eq,
    fun _ _ _ _ hb illegal => (Raises.encodeAddr hb (by omega)).exec_eq,
    fun _ _ _ _ hb low high full => (Raises.encodeFull hb ⟨low, high⟩ full).exec_eq,
    fun s a f c0 c1 p hb low high room rendered => (Completes.frmEncode hb ⟨low, high⟩ room).exec_eq.trans ?_⟩
  rw [complete_next, encodedState, State.report, State.len, ← rendered, packOut_eq_append]
  rfl

/-- Settles O32. -/
theorem frmValidateResult : Obligations.FrmValidateResult := by
  refine ⟨rfl, fun _ short => (Completes.validateShort short).exec_eq,
    fun s f c0 c1 long hf rendered => (Completes.validateLong long hf).exec_eq.trans ?_⟩
  rw [complete_next, State.report, validateFrame_eq_decide _ long hf, bodyOf, ← rendered, packOut_eq_append]
  rfl

/-- FRM_ENCODE ends without an error only by completing: the new buffer is then the encoded frame. -/
theorem encodeFrame_of_exec {s t : State} (h : exec .frmEncode s = .next t) (ok : t.status.err = 0#4) :
    encodeFrame s.params.excDialect s.buf = some t.buf ∧ t.params = s.params := by
  rcases exec_next_cases h with ⟨u, hu, rfl⟩ | ⟨e, -, rfl⟩
  · cases hu with
    | frmEncode hb legal room => exact ⟨by rw [hb, ← encodedState_buf_eq hb, State.setErr_buf], rfl⟩
  · exact absurd ok e.code_ne_zero

theorem exists_exec_validate (s : State) :
    ∃ t, exec .frmValidate s = .next t ∧ t.status.valid = validateFrame s.params.excDialect s.buf := by
  obtain ⟨u, hu, valid, -⟩ := exists_completes_validate s
  exact ⟨u.setErr 0#4, hu.exec_eq, valid⟩

/-- Settles O33, by what each of the two commands leaves. -/
theorem commandsComputeTheFrameFunctions : Obligations.CommandsComputeTheFrameFunctions := by
  refine ⟨fun s t h ok => (encodeFrame_of_exec h ok).1, fun s t h => ?_⟩
  obtain ⟨u, hu, valid⟩ := exists_exec_validate s
  obtain rfl : u = t := Host.Outcome.next.inj (hu.symm.trans h)
  exact valid

/-- Settles O34: an encoded frame validates under its own setting, which the command does not change. -/
theorem encodedFramesValidate : Obligations.EncodedFramesValidate := by
  refine ⟨fun x body long => ?_, fun s t h ok => ?_⟩
  · match body, long with
    | a :: f :: p, _ => exact ⟨_, encodeFrame_cons x a f p, validateFrame_encodeFrame (encodeFrame_cons x a f p)⟩
  · obtain ⟨encoded, params⟩ := encodeFrame_of_exec h ok
    obtain ⟨u, hu, valid⟩ := exists_exec_validate t
    exact ⟨u, hu, by rw [valid, params, validateFrame_encodeFrame encoded]⟩

end Sys2Proof.Machine
end

section
/-! The exception decoder (spec/42_exception_decoder.md R150 to R153, R156): the code map, when a frame has an exception
code, and the checksum order of an encoded exception frame. -/

namespace Sys2Proof.Machine

/-! The code map (R151). -/

/-- The codes that R151 names a kind for. -/
def namedCodes : List Byte := [1#8, 2#8, 3#8, 4#8, 32#8]

theorem excKind_of_not_named {code : Byte} (other : code ∉ namedCodes) : excKind code = .unknownProtocolError := by
  unfold excKind
  split
  case h_6 => rfl
  all_goals exact absurd (by decide) other

theorem mem_namedCodes_iff (code : Byte) :
    code ∈ namedCodes ↔ code.toNat = 1 ∨ code.toNat = 2 ∨ code.toNat = 3 ∨ code.toNat = 4 ∨ code.toNat = 32 := by
  simp [namedCodes, ← BitVec.toNat_inj]

/-- Settles O37: the five named codes one by one, and every other code as UnknownProtocolError. -/
theorem exceptionKindMap : Obligations.ExceptionKindMap := by
  intro code
  by_cases named : code ∈ namedCodes
  · revert code
    decide
  · rw [excKind_of_not_named named]
    rw [mem_namedCodes_iff] at named
    have unknown : (if code.toNat = 32 then 5 else if 1 ≤ code.toNat ∧ code.toNat ≤ 4 then code.toNat else 6) = 6 := by
      split_ifs <;> omega
    simp only [reduceCtorEq, false_iff, unknown]
    exact ⟨rfl, by decide, by decide, by omega⟩

/-! The exception test on numbers (R150, R152). -/

theorem getLsbD_seven_iff (f : Byte) : f.getLsbD 7 = true ↔ 128 ≤ f.toNat := by
  simpa [isExceptionShape] using isExceptionShape_iff 5 f

theorem excCode?_of_high {f : Byte} (a code x y : Byte) (high : 128 ≤ f.toNat) :
    excCode? [a, f, code, x, y] = some code :=
  (excCode?_eq_some_iff _ _).mpr ⟨rfl, ⟨f, rfl, (getLsbD_seven_iff f).mpr high⟩, rfl⟩

theorem excCode?_eq_none_iff (fr : List Byte) :
    excCode? fr = none ↔ (fr.length = 5 → ∀ f, fr[1]? = some f → f.toNat < 128) := by
  rw [← Option.not_isSome_iff_eq_none, excCode?_isSome_iff]
  simp only [getLsbD_seven_iff, not_and, not_exists, not_le]

/-- Settles O38: the frame has an exception code, or it has none. -/
theorem frmClassifyResult : Obligations.FrmClassifyResult :=
  ⟨rfl, fun _ a _ code x y hb high => (Completes.classifyException (hb ▸ excCode?_of_high a code x y high)).exec_eq,
    fun s other => (Completes.classifyOther ((excCode?_eq_none_iff s.buf).mpr other)).exec_eq⟩

/-- Settles O39: such a frame has no exception code. -/
theorem otherLengthsNeverClassify : Obligations.OtherLengthsNeverClassify := by
  intro s length
  have other : excCode? s.buf = none := (excCode?_eq_none_iff s.buf).mpr fun five => absurd five length
  exact ⟨_, (Completes.classifyOther other).exec_eq, rfl, Excr.none_word⟩

/-! The checksum order of an exception frame (R156). -/

/-- Base takes the dialect from the function that failed. -/
theorem frameDialect_base_of_standard_exception {f : Byte} (high : 128 ≤ f.toNat) (standard : f.toNat ≤ 128 + 16) :
    frameDialect .base 5 f = .standard := by
  have shape : isExceptionShape 5 f = true := (isExceptionShape_iff 5 f).mpr ⟨rfl, high⟩
  rw [frameDialect, if_pos shape, Dialect.eq_standard_iff, ne_eq, dialectOf_eq_vendor_iff, toNat_and_7F high]
  omega

/-- Raw takes the dialect from the function byte as it stands, whose bit 7 puts it above the threshold. -/
theorem frameDialect_raw_of_high {f : Byte} (n : Nat) (high : 128 ≤ f.toNat) : frameDialect .raw n f = .vendor :=
  (dialectOf_eq_vendor_iff f).mpr (by omega)

theorem encodeFrame_standard_exception (a : Byte) {f : Byte} (code : Byte) {c : Word} (high : 128 ≤ f.toNat)
    (standard : f.toNat ≤ 128 + 16) (hc : c = checksum [a, f, code]) :
    encodeFrame .base [a, f, code] = some [a, f, code, lowByte c, highByte c] ∧
      encodeFrame .raw [a, f, code] = some [a, f, code, highByte c, lowByte c] := by
  constructor
  · rw [encodeFrame_cons, List.length_singleton, frameDialect_base_of_standard_exception high standard, hc]
    rfl
  · rw [encodeFrame_cons, frameDialect_raw_of_high _ high, hc]
    rfl

/-- Settles O40; the two frames of R156 are the law at function 3, with the checksum evaluated. -/
theorem exceptionFrameChecksumOrder : Obligations.ExceptionFrameChecksumOrder := by
  have sampleChecksum : 0xF1C0#16 = checksum [1#8, 0x83#8, 2#8] := by decide +kernel
  exact ⟨fun a f code c high standard hc => encodeFrame_standard_exception a code high standard hc,
    encodeFrame_standard_exception 1#8 2#8 (by decide) (by decide) sampleChecksum⟩

end Sys2Proof.Machine
end

section
/-! How a command word ends (spec/60_exceptions.md R170 to R173): always in a next state, and after an error with ERR and
STICKY changed alone. -/

namespace Sys2Proof.Machine

theorem CmdError.code_mem (e : CmdError) : e.code ∈ [1#4, 2#4, 3#4, 4#4, 5#4] := by cases e <;> decide

/-- No word, legal or not, leaves the machine without a next state (R170). -/
theorem exists_performWord_eq_next (w : Word) (s : State) : ∃ t, performWord w s = .next t := by
  rcases performWord_cases w s with ⟨i, -, h⟩ | ⟨why, -, h⟩
  · rw [h]
    exact exists_exec_eq_next i s
  · exact ⟨_, h⟩

/-- Settles O41: a completion clears ERR and leaves STICKY, an error writes the two and nothing else. -/
theorem everyWordEndsAndErrorsArePrecise : Obligations.EveryWordEndsAndErrorsArePrecise := by
  intro w s
  obtain ⟨t, h⟩ := exists_performWord_eq_next w s
  refine ⟨t, h, ?_⟩
  rcases performWord_next_cases h with ⟨i, u, hu, rfl⟩ | ⟨e, rfl⟩
  · exact .inl ⟨rfl, hu.sticky⟩
  · exact .inr ⟨e.code, e.code_mem, rfl⟩

/-- Settles O42: a completion leaves ERR 0, which every command can, and an error leaves the code of one of the checks
that its command makes. -/
theorem errorsOfEachCommand : Obligations.ErrorsOfEachCommand := by
  intro i s t h
  rcases exec_next_cases h with ⟨u, -, rfl⟩ | ⟨e, hr, rfl⟩
  · cases i <;> exact .head _
  · cases hr with
    | pushFull | readPastEnd | encodeFull => exact .tail _ (.head _)
    | encodeShort => exact .tail _ (.tail _ (.head _))
    | encodeAddr => exact .tail _ (.tail _ (.tail _ (.head _)))

end Sys2Proof.Machine
end

section
/-! Idle steps (spec/60_exceptions.md R185), and runs that perform all the host has issued
(spec/70_reset_and_hazards.md R201). -/

namespace Sys2Proof.Machine

/-- Settles O10. -/
theorem idleStepChangesNothing : Obligations.IdleStepChangesNothing := by
  intro s idle
  simp only [step, serve, idle]

/-- The invariants rule out the reserved values: KIND is 0 where EXC is clear, and a kind of R151 where it is set. -/
theorem State.Inv.sound {s : State} (h : s.Inv) : s.Sound := by
  refine (State.sound_iff s).mpr ⟨h.errDefined, ?_⟩
  cases hexc : s.status.exc with
  | false =>
    rw [h.noExcClears hexc]
    decide
  | true =>
    obtain ⟨code, -, hexcr⟩ := h.excIsTrue hexc
    rw [hexcr]
    exact (excKind code).value_ne_seven

/-- A sound state serves whatever stands at the front of the port, and leaves the rest of it. -/
theorem exists_step_of_sound {s : State} {a : HostAct} {rest : List HostAct} (hs : s.Sound)
    (hp : s.port = a :: rest) : ∃ t, step s = .next t ∧ t.port = rest := by
  cases a with
  | command w =>
    obtain ⟨t, h⟩ := exists_performWord_eq_next w { s with port := rest }
    exact ⟨t, (step_command hs hp).trans h, (performWord_sticky h).1⟩
  | read r => exact ⟨_, step_read hs hp, rfl⟩
  | reset => exact ⟨_, step_reset hp, rfl⟩

/-- Settles O49, by induction on what is still to issue: a step takes one interaction and keeps the invariants. -/
theorem everyRunEndsWithoutAStop : Obligations.EveryRunEndsWithoutAStop := by
  intro s hs
  induction hp : s.port generalizing s with
  | nil => exact ⟨s, rfl, hp, hs⟩
  | cons a rest ih =>
    obtain ⟨m, first, left⟩ := exists_step_of_sound hs.sound hp
    rw [List.length_cons, runFor_succ_of_next first]
    exact ih m (everyStepKeepsTheInvariant s m hs first) left

end Sys2Proof.Machine
end

section
/-! Reading the frame out (spec/70_reset_and_hazards.md R197): each FRM_READ and read of `OUT` gives the host one
byte. -/

namespace Sys2Proof.Machine

/-- From `s` to `t` the host has read the bytes `bs`; the buffer and STICKY stay, and `t` can serve the next
interaction. -/
structure HostReads (bs : List Byte) (s t : State) : Prop where
  reads : t.reads = s.reads ++ bs.map zext16
  buf : t.buf = s.buf
  sticky : t.status.sticky = s.status.sticky
  sound : t.Sound

theorem HostReads.nil {s : State} (hs : s.Sound) : HostReads [] s s where
  reads := (List.append_nil s.reads).symm
  buf := rfl
  sticky := rfl
  sound := hs

theorem HostReads.append {xs ys : List Byte} {s t u : State} (first : HostReads xs s t) (next : HostReads ys t u) :
    HostReads (xs ++ ys) s u where
  reads := by rw [next.reads, first.reads, List.map_append, List.append_assoc]
  buf := next.buf.trans first.buf
  sticky := next.sticky.trans first.sticky
  sound := next.sound

/-- FRM_READ of an index that holds a byte and the read of `OUT` behind it give the host that byte. -/
theorem runFor_readByte {s : State} {k b : Byte} {acts : List HostAct} (hs : s.Sound)
    (hp : s.port = .command (encode (.frmRead k)) :: .read 3#3 :: acts) (held : s.buf[k.toNat]? = some b) (n : Nat) :
    ∃ t, runFor (n + 2) s = runFor n t ∧ t.port = acts ∧ HostReads [b] s t := by
  have command : exec (.frmRead k) s = .next ((s.setOut (zext16 b)).setErr 0#4) := (Completes.frmRead held).exec_eq
  have sound : ((s.setOut (zext16 b)).setErr 0#4).Sound := exec_sound hs command
  have first := step_encode (rest := s.port) _ hs hp command
  have second := step_read ((State.sound_port _ (.read 3#3 :: acts)).mpr sound) rfl
  exact ⟨_, (runFor_succ_of_next first).trans (runFor_succ_of_next second), rfl, rfl, rfl, rfl, sound⟩

theorem readOut_succ (n : Nat) :
    readOut (n + 1) = readOut n ++ [.command (encode (.frmRead (BitVec.ofNat 8 n))), .read 3#3] := by
  simp [readOut, List.range_succ]

/-- A read-out of `n` bytes that are there and that an index operand can name gives the host the first `n` of the
buffer; the run goes on with what is issued behind it. -/
theorem runFor_readOut {s : State} {n : Nat} {acts : List HostAct} (hs : s.Sound) (held : n ≤ s.buf.length)
    (named : n ≤ 256) (hp : s.port = readOut n ++ acts) (m : Nat) :
    ∃ t, runFor (2 * n + m) s = runFor m t ∧ t.port = acts ∧ HostReads (s.buf.take n) s t := by
  induction n generalizing acts m with
  | zero => exact ⟨s, by rw [Nat.mul_zero, Nat.zero_add], hp, .nil hs⟩
  | succ n ih =>
    rw [readOut_succ, List.append_assoc] at hp
    obtain ⟨t, run, port, before⟩ := ih (by omega) (by omega) hp (m + 2)
    have index : (BitVec.ofNat 8 n).toNat = n := by rw [BitVec.toNat_ofNat]; omega
    have byte : t.buf[(BitVec.ofNat 8 n).toNat]? = some s.buf[n] := by
      rw [index, before.buf, List.getElem?_eq_getElem]
    obtain ⟨u, run', port', last⟩ := runFor_readByte before.sound port byte m
    refine ⟨u, ?_, port', ?_⟩
    · rw [← run', ← run, show 2 * (n + 1) + m = 2 * n + (m + 2) by omega]
    · rw [List.take_succ_eq_append_getElem held]
      exact before.append last

/-- Settles O57: the whole buffer is there, and no legal MAX_FRAME is above 255. -/
theorem readOutGivesTheFrame : Obligations.ReadOutGivesTheFrame := by
  intro s hs hp
  have fits := hs.buf_length_le
  have small := hs.paramsLegal.2
  obtain ⟨t, run, port, all⟩ :=
    runFor_readOut hs.sound (Nat.le_refl _) (by omega) (hp.trans (List.append_nil _).symm) 0
  rw [List.take_length] at all
  exact ⟨t, run, all.reads, all.buf, port, all.sticky⟩

end Sys2Proof.Machine
end

section
/-! MAX_FRAME and EXC_DIALECT stay as they are (spec/70_reset_and_hazards.md R191). -/

namespace Sys2Proof.Machine

theorem performWord_params {w : Word} {s t : State} (h : performWord w s = .next t) : t.params = s.params := by
  rcases performWord_next_cases h with ⟨i, u, hu, rfl⟩ | ⟨e, rfl⟩
  · exact hu.params
  · rfl

/-- Settles O51, along the ways a step can go: idle, a command word, a register read, a reset. -/
theorem parametersNeverChange : Obligations.ParametersNeverChange := by
  intro s t h
  rcases step_cases h with ⟨-, rfl⟩ | ⟨rest, ⟨w, -, -, hw⟩ | ⟨a, -, -, rfl⟩ | ⟨-, rfl⟩⟩
  · rfl
  · exact performWord_params (s := { s with port := rest }) hw
  · exact State.hostRead_params _ a
  · exact State.assertReset_params _

end Sys2Proof.Machine
end

section
/-! A state that holds a reserved value stops the model at the next command or register read
(spec/93_implementation_defined.md I13, I14). -/

namespace Sys2Proof.Machine

theorem State.reservedValue?_of_reserved_err {s : State} (err : 5 < s.status.err.toNat) :
    s.reservedValue? = some (.reservedErr s.status.err) :=
  if_pos err

theorem State.reservedValue?_of_reserved_kind {s : State} (err : s.status.err.toNat ≤ 5) (kind : s.excr.kind = 7#3) :
    s.reservedValue? = some .reservedKind := by
  rw [State.reservedValue?, if_neg (Nat.not_lt.mpr err), if_pos kind]

theorem guarded_of_reserved {s : State} {f : Fault} (reserved : s.reservedValue? = some f) (act : State → Answer) :
    guarded s act = .fault f := by
  rw [guarded, reserved]

/-- A command and a register read are guarded; a reset is not. -/
theorem performAct_of_reserved {s : State} {f : Fault} {act : HostAct} (reserved : s.reservedValue? = some f)
    (notReset : act ≠ .reset) : performAct act s = .fault f := by
  cases act with
  | command w => exact guarded_of_reserved reserved (performWord w)
  | read a => exact guarded_of_reserved reserved fun t => .next (t.hostRead a)
  | reset => exact absurd rfl notReset

/-- What the host has still to issue plays no part in which reserved value the state holds. -/
theorem step_of_reserved {s : State} {f : Fault} {act : HostAct} {rest : List HostAct}
    (reserved : s.reservedValue? = some f) (hp : s.port = act :: rest) (notReset : act ≠ .reset) :
    step s = .fault f := by
  rw [step_of_port_cons hp]
  exact performAct_of_reserved (s := { s with port := rest }) reserved notReset

/-- Settles O11: the state holds the reserved code, or no reserved code and the unused kind. -/
theorem reservedValuesAreFaults : Obligations.ReservedValuesAreFaults := by
  intro s act rest hp notReset
  constructor
  · intro err
    exact step_of_reserved (State.reservedValue?_of_reserved_err err) hp notReset
  · intro err kind
    exact step_of_reserved (State.reservedValue?_of_reserved_kind err kind) hp notReset

end Sys2Proof.Machine
end
